-- ==== Sys2Proof/Word.lean ====
section
/-! DEFINITION. The word types of CORE: a byte, a 16-bit word, a nibble and a 12-bit address
(spec 00_scope.md R8, R9). All values are unsigned; no operation is signed. -/

namespace Sys2Proof

/-- An 8-bit unsigned value: a general register, a timer, a memory cell (10_state.md R20, R30, R36). -/
abbrev Byte := BitVec 8

/-- A 16-bit unsigned value: `I`, `pc`, a stack cell, an opcode (10_state.md R24, R26, R29). -/
abbrev Word := BitVec 16

/-- A 4-bit unsigned value: an opcode nibble, a key index (00_scope.md R9). -/
abbrev Nibble := BitVec 4

/-- The number of a general register, the 4-bit `x` or `y` field (10_state.md R20, 30_encoding.md R92). -/
abbrev Reg := Nibble

/-- The 12-bit immediate `nnn` (30_encoding.md R93). -/
abbrev Addr12 := BitVec 12

/-- `VF`, the register that also receives flags (10_state.md R23). -/
abbrev Reg.vf : Reg := 15#4

end Sys2Proof
end

