-- ==== Sys2Proof/Config.lean ====
section
/-! DEFINITION. What is fixed for the machine but is no state: the constants of spec 00_scope.md R6, the open
parameter `CYCLES_PER_TICK` (R7) and the free values of `CXNN` (R7, R131). The font table is in Machine/Font.lean. -/

namespace Sys2Proof

/-- `MEM_SIZE`: bytes of memory (00_scope.md R6). -/
abbrev Config.memSize : Nat := 4096

/-- `STACK_DEPTH`: saved program counters the stack can hold (00_scope.md R6, 90_conflicts.md C1). -/
abbrev Config.stackDepth : Nat := 16

/-- `FB_W`: framebuffer columns (00_scope.md R6). -/
abbrev Config.fbWidth : Nat := 64

/-- `FB_H`: framebuffer rows (00_scope.md R6). -/
abbrev Config.fbHeight : Nat := 32

/-- `NKEYS`: keys (00_scope.md R6). -/
abbrev Config.numKeys : Nat := 16

/-- `PROG_BASE`: the address of the first ROM byte and `pc` after load (00_scope.md R6). -/
abbrev Config.progBase : Nat := 0x200

/-- `MAX_ROM`: the longest ROM `LOAD` accepts, `4096 - 0x200` (00_scope.md R6). -/
abbrev Config.maxRom : Nat := Config.memSize - Config.progBase

/-- The free part of `CYCLES_PER_TICK`: any natural number, nothing constrains it (log 2). -/
opaque Config.cyclesPerTickLessOne : Nat

/-- `CYCLES_PER_TICK`: instruction cycles one `TICK` executes, an open parameter, at least 1 and constant over a
run (00_scope.md R7, 92_eei_decisions.md D24; log 2). -/
def Config.cyclesPerTick : Nat := Config.cyclesPerTickLessOne + 1

/-- FREE VALUE: the byte the `k`-th execution of `CXNN` draws. Nothing constrains it
(00_scope.md R7 `rnd`, 40_arithmetic_logic.md R131, 92_eei_decisions.md D11; log 3). -/
opaque Config.rndByte : Nat → Byte

end Sys2Proof
end

