-- ==== Sys2Proof/Syntax.lean ====
section
/-! DEFINITION. The instruction set as data: one constructor for each of the 35 rows of spec/opcode_table.json
(spec 30_encoding.md R95). Operands are typed at the width of their field (R92), so the only value a constructor
can hold that its row cannot is a `SYS` address that spells `CLS` or `RET` (WellFormed.lean). -/

namespace Sys2Proof

/-- An instruction of CORE (30_encoding.md R95). -/
inductive Instr where
  /-- `00E0`, `CLS` (R190). -/
  | cls
  /-- `00EE`, `RET` (R151). -/
  | ret
  /-- `0NNN`, `SYS nnn` (R150). -/
  | sys (nnn : Addr12)
  /-- `1NNN`, `JP nnn` (R152). -/
  | jp (nnn : Addr12)
  /-- `2NNN`, `CALL nnn` (R153). -/
  | call (nnn : Addr12)
  /-- `3XNN`, `SE Vx, nn` (R154). -/
  | seImm (x : Reg) (nn : Byte)
  /-- `4XNN`, `SNE Vx, nn` (R155). -/
  | sneImm (x : Reg) (nn : Byte)
  /-- `5XY0`, `SE Vx, Vy` (R156). -/
  | seReg (x y : Reg)
  /-- `6XNN`, `LD Vx, nn` (R120). -/
  | ldImm (x : Reg) (nn : Byte)
  /-- `7XNN`, `ADD Vx, nn` (R121). -/
  | addImm (x : Reg) (nn : Byte)
  /-- `8XY0`, `LD Vx, Vy` (R122). -/
  | ldReg (x y : Reg)
  /-- `8XY1`, `OR Vx, Vy` (R123). -/
  | orReg (x y : Reg)
  /-- `8XY2`, `AND Vx, Vy` (R124). -/
  | andReg (x y : Reg)
  /-- `8XY3`, `XOR Vx, Vy` (R125). -/
  | xorReg (x y : Reg)
  /-- `8XY4`, `ADD Vx, Vy` (R126). -/
  | addReg (x y : Reg)
  /-- `8XY5`, `SUB Vx, Vy` (R127). -/
  | subReg (x y : Reg)
  /-- `8XY6`, `SHR Vx` (R128); the `y` field is carried and ignored (R98). -/
  | shr (x y : Reg)
  /-- `8XY7`, `SUBN Vx, Vy` (R129). -/
  | subn (x y : Reg)
  /-- `8XYE`, `SHL Vx` (R130); the `y` field is carried and ignored (R98). -/
  | shl (x y : Reg)
  /-- `9XY0`, `SNE Vx, Vy` (R157). -/
  | sneReg (x y : Reg)
  /-- `ANNN`, `LD I, nnn` (R170). -/
  | ldI (nnn : Addr12)
  /-- `BNNN`, `JP V0, nnn` (R158). -/
  | jpV0 (nnn : Addr12)
  /-- `CXNN`, `RND Vx, nn` (R131). -/
  | rnd (x : Reg) (nn : Byte)
  /-- `DXYN`, `DRW Vx, Vy, n` (R191). -/
  | drw (x y : Reg) (n : Nibble)
  /-- `EX9E`, `SKP Vx` (R201). -/
  | skp (x : Reg)
  /-- `EXA1`, `SKNP Vx` (R202). -/
  | sknp (x : Reg)
  /-- `FX07`, `LD Vx, DT` (R210). -/
  | ldVxDT (x : Reg)
  /-- `FX0A`, `LD Vx, K` (R203). -/
  | ldVxK (x : Reg)
  /-- `FX15`, `LD DT, Vx` (R211). -/
  | ldDTVx (x : Reg)
  /-- `FX18`, `LD ST, Vx` (R212). -/
  | ldSTVx (x : Reg)
  /-- `FX1E`, `ADD I, Vx` (R171). -/
  | addI (x : Reg)
  /-- `FX29`, `LD F, Vx` (R172). -/
  | ldF (x : Reg)
  /-- `FX33`, `LD B, Vx` (R173). -/
  | ldB (x : Reg)
  /-- `FX55`, `LD [I], Vx` (R174). -/
  | storeRegs (x : Reg)
  /-- `FX65`, `LD Vx, [I]` (R175). -/
  | loadRegs (x : Reg)
  deriving DecidableEq, Repr

end Sys2Proof
end

