-- ==== Sys2Proof/Decode.lean ====
section
/-! DEFINITION. Field extraction (spec 30_encoding.md R92), the decoder (R94, R96), the encoder (R91, R95), and
each instruction's row of the opcode table (R95, spec/opcode_table.json). The decoder is total and strict. -/

namespace Sys2Proof

/-- `g = op[15:12]`, the group nibble (R92). -/
def fieldG (op : Word) : Nibble := op.extractLsb' 12 4

/-- `x = op[11:8]` (R92). -/
def fieldX (op : Word) : Reg := op.extractLsb' 8 4

/-- `y = op[7:4]` (R92). -/
def fieldY (op : Word) : Reg := op.extractLsb' 4 4

/-- `n = op[3:0]` (R92). -/
def fieldN (op : Word) : Nibble := op.extractLsb' 0 4

/-- `nn = op[7:0]` (R92). -/
def fieldNN (op : Word) : Byte := op.extractLsb' 0 8

/-- `nnn = op[11:0]` (R92). -/
def fieldNNN (op : Word) : Addr12 := op.extractLsb' 0 12

/-- Why a word is no instruction: the rows of the table of illegal values (R96), and an input shorter than one
opcode (R90). Raised by the decoder; the instruction cycle turns each of the first five into
`UnknownOpcode(op)` (48_cycle_tick_host.md R221). Safe: no word is given a meaning the spec does not give it. -/
inductive Reject where
  /-- Group 5 with `n` other than 0. -/
  | group5
  /-- Group 8 with `n` in 8 to 0xD or 0xF. -/
  | group8
  /-- Group 9 with `n` other than 0. -/
  | group9
  /-- Group E with `nn` neither 0x9E nor 0xA1. -/
  | groupE
  /-- Group F with `nn` none of the nine sub-opcodes. -/
  | groupF
  /-- Fewer than two bytes. -/
  | truncated
  deriving DecidableEq, Repr

/-- Group 8: the low nibble selects the row (R94, R95). -/
def decodeGroup8 (x y : Reg) (n : Nibble) : Except Reject Instr :=
  match n with
  | 0x0#4 => .ok (.ldReg x y)
  | 0x1#4 => .ok (.orReg x y)
  | 0x2#4 => .ok (.andReg x y)
  | 0x3#4 => .ok (.xorReg x y)
  | 0x4#4 => .ok (.addReg x y)
  | 0x5#4 => .ok (.subReg x y)
  | 0x6#4 => .ok (.shr x y)
  | 0x7#4 => .ok (.subn x y)
  | 0xE#4 => .ok (.shl x y)
  | _ => .error .group8

/-- Group E: the low byte selects the row (R94, R95). -/
def decodeGroupE (x : Reg) (nn : Byte) : Except Reject Instr :=
  match nn with
  | 0x9E#8 => .ok (.skp x)
  | 0xA1#8 => .ok (.sknp x)
  | _ => .error .groupE

/-- Group F: the low byte selects the row (R94, R95). -/
def decodeGroupF (x : Reg) (nn : Byte) : Except Reject Instr :=
  match nn with
  | 0x07#8 => .ok (.ldVxDT x)
  | 0x0A#8 => .ok (.ldVxK x)
  | 0x15#8 => .ok (.ldDTVx x)
  | 0x18#8 => .ok (.ldSTVx x)
  | 0x1E#8 => .ok (.addI x)
  | 0x29#8 => .ok (.ldF x)
  | 0x33#8 => .ok (.ldB x)
  | 0x55#8 => .ok (.storeRegs x)
  | 0x65#8 => .ok (.loadRegs x)
  | _ => .error .groupF

/-- Group 0: the two exact words are tried before the `0NNN` row (R94). -/
def decodeGroup0 (nnn : Addr12) : Instr :=
  if nnn = 0x0E0#12 then .cls else if nnn = 0x0EE#12 then .ret else .sys nnn

/-- The decoder on one opcode: total, in the order of R94, the fixed bits compared in full (R96).
The last arm is group 0xF, the one value the fifteen arms before it leave. -/
def decode (op : Word) : Except Reject Instr :=
  match fieldG op with
  | 0x0#4 => .ok (decodeGroup0 (fieldNNN op))
  | 0x1#4 => .ok (.jp (fieldNNN op))
  | 0x2#4 => .ok (.call (fieldNNN op))
  | 0x3#4 => .ok (.seImm (fieldX op) (fieldNN op))
  | 0x4#4 => .ok (.sneImm (fieldX op) (fieldNN op))
  | 0x5#4 => if fieldN op = 0#4 then .ok (.seReg (fieldX op) (fieldY op)) else .error .group5
  | 0x6#4 => .ok (.ldImm (fieldX op) (fieldNN op))
  | 0x7#4 => .ok (.addImm (fieldX op) (fieldNN op))
  | 0x8#4 => decodeGroup8 (fieldX op) (fieldY op) (fieldN op)
  | 0x9#4 => if fieldN op = 0#4 then .ok (.sneReg (fieldX op) (fieldY op)) else .error .group9
  | 0xA#4 => .ok (.ldI (fieldNNN op))
  | 0xB#4 => .ok (.jpV0 (fieldNNN op))
  | 0xC#4 => .ok (.rnd (fieldX op) (fieldNN op))
  | 0xD#4 => .ok (.drw (fieldX op) (fieldY op) (fieldN op))
  | 0xE#4 => decodeGroupE (fieldX op) (fieldNN op)
  | _ => decodeGroupF (fieldX op) (fieldNN op)

/-- The two bytes of an opcode combined big-endian: the byte at the lower address is the high byte
(30_encoding.md R90, 20_memory.md R63). -/
def combine (hi lo : Byte) : Word := hi ++ lo

/-- The high byte of an opcode, the one at the lower address (R90). -/
def highByte (op : Word) : Byte := op.extractLsb' 8 8

/-- The low byte of an opcode (R90). -/
def lowByte (op : Word) : Byte := op.extractLsb' 0 8

/-- The decoder on any bytes: the first instruction and the bytes after it (R90: one length, two bytes). -/
def decodeBytes : List Byte → Except Reject (Instr × List Byte)
  | hi :: lo :: rest =>
    match decode (combine hi lo) with
    | .ok i => .ok (i, rest)
    | .error r => .error r
  | [] | [_] => .error .truncated

/-- Format `NNN` (R91). -/
def encNNN (g : Nibble) (nnn : Addr12) : Word := g ++ nnn

/-- Format `XNN` (R91). -/
def encXNN (g : Nibble) (x : Reg) (nn : Byte) : Word := g ++ (x ++ nn : BitVec 12)

/-- Formats `XYN` and `XYS` (R91): the low nibble is an operand or the sub-opcode. -/
def encXYN (g : Nibble) (x y : Reg) (n : Nibble) : Word := g ++ (x ++ (y ++ n : BitVec 8) : BitVec 12)

/-- The encoder: the word of an instruction by the rows of R95. Format `XSS` is `XNN` with the low byte fixed. -/
def encode : Instr → Word
  | .cls => 0x00E0#16
  | .ret => 0x00EE#16
  | .sys nnn => encNNN 0x0#4 nnn
  | .jp nnn => encNNN 0x1#4 nnn
  | .call nnn => encNNN 0x2#4 nnn
  | .seImm x nn => encXNN 0x3#4 x nn
  | .sneImm x nn => encXNN 0x4#4 x nn
  | .seReg x y => encXYN 0x5#4 x y 0x0#4
  | .ldImm x nn => encXNN 0x6#4 x nn
  | .addImm x nn => encXNN 0x7#4 x nn
  | .ldReg x y => encXYN 0x8#4 x y 0x0#4
  | .orReg x y => encXYN 0x8#4 x y 0x1#4
  | .andReg x y => encXYN 0x8#4 x y 0x2#4
  | .xorReg x y => encXYN 0x8#4 x y 0x3#4
  | .addReg x y => encXYN 0x8#4 x y 0x4#4
  | .subReg x y => encXYN 0x8#4 x y 0x5#4
  | .shr x y => encXYN 0x8#4 x y 0x6#4
  | .subn x y => encXYN 0x8#4 x y 0x7#4
  | .shl x y => encXYN 0x8#4 x y 0xE#4
  | .sneReg x y => encXYN 0x9#4 x y 0x0#4
  | .ldI nnn => encNNN 0xA#4 nnn
  | .jpV0 nnn => encNNN 0xB#4 nnn
  | .rnd x nn => encXNN 0xC#4 x nn
  | .drw x y n => encXYN 0xD#4 x y n
  | .skp x => encXNN 0xE#4 x 0x9E#8
  | .sknp x => encXNN 0xE#4 x 0xA1#8
  | .ldVxDT x => encXNN 0xF#4 x 0x07#8
  | .ldVxK x => encXNN 0xF#4 x 0x0A#8
  | .ldDTVx x => encXNN 0xF#4 x 0x15#8
  | .ldSTVx x => encXNN 0xF#4 x 0x18#8
  | .addI x => encXNN 0xF#4 x 0x1E#8
  | .ldF x => encXNN 0xF#4 x 0x29#8
  | .ldB x => encXNN 0xF#4 x 0x33#8
  | .storeRegs x => encXNN 0xF#4 x 0x55#8
  | .loadRegs x => encXNN 0xF#4 x 0x65#8

/-- The bytes of an instruction in memory order (R90). -/
def encodeBytes (i : Instr) : List Byte := [highByte (encode i), lowByte (encode i)]

/-- The `mask` and `match` of an instruction's row in spec/opcode_table.json (R95): `op` is of the row when
`(op AND mask) = match` (R94). -/
def tableRow : Instr → Word × Word
  | .cls => (0xFFFF#16, 0x00E0#16)
  | .ret => (0xFFFF#16, 0x00EE#16)
  | .sys _ => (0xF000#16, 0x0000#16)
  | .jp _ => (0xF000#16, 0x1000#16)
  | .call _ => (0xF000#16, 0x2000#16)
  | .seImm _ _ => (0xF000#16, 0x3000#16)
  | .sneImm _ _ => (0xF000#16, 0x4000#16)
  | .seReg _ _ => (0xF00F#16, 0x5000#16)
  | .ldImm _ _ => (0xF000#16, 0x6000#16)
  | .addImm _ _ => (0xF000#16, 0x7000#16)
  | .ldReg _ _ => (0xF00F#16, 0x8000#16)
  | .orReg _ _ => (0xF00F#16, 0x8001#16)
  | .andReg _ _ => (0xF00F#16, 0x8002#16)
  | .xorReg _ _ => (0xF00F#16, 0x8003#16)
  | .addReg _ _ => (0xF00F#16, 0x8004#16)
  | .subReg _ _ => (0xF00F#16, 0x8005#16)
  | .shr _ _ => (0xF00F#16, 0x8006#16)
  | .subn _ _ => (0xF00F#16, 0x8007#16)
  | .shl _ _ => (0xF00F#16, 0x800E#16)
  | .sneReg _ _ => (0xF00F#16, 0x9000#16)
  | .ldI _ => (0xF000#16, 0xA000#16)
  | .jpV0 _ => (0xF000#16, 0xB000#16)
  | .rnd _ _ => (0xF000#16, 0xC000#16)
  | .drw _ _ _ => (0xF000#16, 0xD000#16)
  | .skp _ => (0xF0FF#16, 0xE09E#16)
  | .sknp _ => (0xF0FF#16, 0xE0A1#16)
  | .ldVxDT _ => (0xF0FF#16, 0xF007#16)
  | .ldVxK _ => (0xF0FF#16, 0xF00A#16)
  | .ldDTVx _ => (0xF0FF#16, 0xF015#16)
  | .ldSTVx _ => (0xF0FF#16, 0xF018#16)
  | .addI _ => (0xF0FF#16, 0xF01E#16)
  | .ldF _ => (0xF0FF#16, 0xF029#16)
  | .ldB _ => (0xF0FF#16, 0xF033#16)
  | .storeRegs _ => (0xF0FF#16, 0xF055#16)
  | .loadRegs _ => (0xF0FF#16, 0xF065#16)

/-- A table word of `nbits` bits with bit 0 the least significant bit of the opcode; the bits above are 0. -/
def tableWord (nbits w : Nat) : Word := BitVec.ofNat 16 (w % 2 ^ nbits)

/-- What the decoder reads from an instruction whose bits are `w`, laid out as the hardware stores it. -/
def decodeTableWord (nbits w : Nat) : Option Instr :=
  match decodeBytes [highByte (tableWord nbits w), lowByte (tableWord nbits w)] with
  | .ok (i, _) => some i
  | .error _ => none

end Sys2Proof
end

