-- ==== Sys2Proof/Machine/Font.lean ====
section
/-! DEFINITION. The font: its base address and its 80 bytes (spec 00_scope.md R7, 20_memory.md R70,
92_eei_decisions.md D14; log 5). They are constants, not state (10_state.md R37). -/

namespace Sys2Proof.Machine

/-- `FONT_BASE`, the address of glyph 0 (00_scope.md R7). -/
def fontBase : Nat := 0x000

/-- `NGLYPH * GLYPH_BYTES`: the bytes of the font (00_scope.md R6). -/
def fontSize : Nat := 16 * 5

/-- `FONT`, glyphs 0 to 7 (20_memory.md R70). -/
def fontLow : List Byte :=
  [0xF0, 0x90, 0x90, 0x90, 0xF0] ++ [0x20, 0x60, 0x20, 0x20, 0x70] ++
  [0xF0, 0x10, 0xF0, 0x80, 0xF0] ++ [0xF0, 0x10, 0xF0, 0x10, 0xF0] ++
  [0x90, 0x90, 0xF0, 0x10, 0x10] ++ [0xF0, 0x80, 0xF0, 0x10, 0xF0] ++
  [0xF0, 0x80, 0xF0, 0x90, 0xF0] ++ [0xF0, 0x10, 0x20, 0x40, 0x40]

/-- `FONT`, glyphs 8 to F (20_memory.md R70). -/
def fontHigh : List Byte :=
  [0xF0, 0x90, 0xF0, 0x90, 0xF0] ++ [0xF0, 0x90, 0xF0, 0x10, 0xF0] ++
  [0xF0, 0x90, 0xF0, 0x90, 0x90] ++ [0xE0, 0x90, 0xE0, 0x90, 0xE0] ++
  [0xF0, 0x80, 0x80, 0x80, 0xF0] ++ [0xE0, 0x90, 0x90, 0x90, 0xE0] ++
  [0xF0, 0x80, 0xF0, 0x80, 0xF0] ++ [0xF0, 0x80, 0xF0, 0x80, 0x80]

/-- `FONT[k]` (20_memory.md R70); 0 past its end, where nothing asks. -/
def fontByte (k : Nat) : Byte := (fontLow ++ fontHigh).getD k 0

end Sys2Proof.Machine
end

