-- ==== Sys2Proof/Machine/State.lean ====
section
/-! DEFINITION. The state of CORE as plain data (spec 10_state.md, "the whole state of CORE is the tuple"), the
faults it can record, the refusals of the model, and the state after reset (R50). -/

namespace Sys2Proof.Machine

/-- The three run-time faults (60_exceptions.md R250). They are values of the `fault` register: an instruction
cycle that raises one answers a NEXT state with the register set (R254). `step` on a machine that has already
stopped answers `.fault` with the recorded value, because such a machine runs no cycle (48_cycle_tick_host.md
R221, R223; log 8); that is safe: no state follows a stopped one except through `LOAD`. -/
inductive Fault where
  /-- Raised by the decode step for a word of no row, and by `0NNN`; `code` is the full opcode (R251). Safe. -/
  | unknownOpcode (code : Word)
  /-- Raised by `2NNN CALL` with 16 entries on the stack (R252). Safe. -/
  | stackOverflow
  /-- Raised by `00EE RET` with an empty stack (R253). Safe. -/
  | stackUnderflow
  deriving DecidableEq, Repr

/-- What the model leaves without a meaning. Every instruction of CORE has one, so nothing raises this. -/
inductive Refusal where
  /-- An arm of `exec` not written yet; no arm is left so. Safe: the machine stops. -/
  | notModelled (mnemonic : String)
  deriving DecidableEq, Repr

/-- Memory as the list of the bytes that differ from the power-on image, addresses strictly rising
(20_memory.md R60; the canonical form is `Memory.wf` in Machine/Ops.lean). -/
abbrev Memory := List Host.Cell

/-- The framebuffer `fb[y][x]`: 32 rows from the top, each of 64 pixels from the left; `true` is on
(10_state.md R35). -/
abbrev Framebuffer := Vector (Vector Bool Config.fbWidth) Config.fbHeight

/-- The whole state of CORE (10_state.md, the tuple at its head), and two counters of the model's own. -/
structure State where
  /-- `V[0]` to `V[15]` (R20). -/
  v : Vector Byte 16
  /-- `I`, the index register (R24). -/
  i : Word
  /-- `pc` (R26). -/
  pc : Word
  /-- `stack[0]` to `stack[15]` (R29). -/
  stack : Vector Word Config.stackDepth
  /-- `sp`, the number of stack entries in use, 0 to 16 (R29). -/
  sp : Fin (Config.stackDepth + 1)
  /-- `DT`, the delay timer (R30). -/
  dt : Byte
  /-- `ST`, the sound timer (R31). -/
  st : Byte
  /-- `keys[0]` to `keys[15]`, `true` while held (R33). -/
  keys : Vector Bool Config.numKeys
  /-- `fb` (R35). -/
  fb : Framebuffer
  /-- `mem` (R36). -/
  mem : Memory
  /-- `wait_key` (R33). -/
  waitKey : Bool
  /-- `latch_valid` (R33). -/
  latchValid : Bool
  /-- `latch_key` (R33). -/
  latchKey : Nibble
  /-- `fault`, `none` while the machine runs (R34). -/
  fault : Option Fault
  /-- THE MODEL'S OWN: instruction cycles completed since the last successful `LOAD`. A tick boundary is where
  `CYCLES_PER_TICK` divides it (48_cycle_tick_host.md R222; log 1, log 4). -/
  cycles : Nat
  /-- THE MODEL'S OWN: how many bytes `CXNN` has drawn; the next draw is `Config.rndByte draws`
  (40_arithmetic_logic.md R131; log 3, log 4). -/
  draws : Nat
  deriving DecidableEq, Repr

/-- The state right after power-on, which is that after `LOAD` of the empty ROM (10_state.md R50,
48_cycle_tick_host.md R228): every register zero or empty, `pc` at 0x200, memory at its power-on image. -/
def State.reset : State where
  v := Vector.replicate 16 0
  i := 0
  pc := BitVec.ofNat 16 Config.progBase
  stack := Vector.replicate Config.stackDepth 0
  sp := 0
  dt := 0
  st := 0
  keys := Vector.replicate Config.numKeys false
  fb := Vector.replicate Config.fbHeight (Vector.replicate Config.fbWidth false)
  mem := []
  waitKey := false
  latchValid := false
  latchKey := 0
  fault := none
  cycles := 0
  draws := 0

end Sys2Proof.Machine
end

