-- ==== Sys2Proof/Machine/Ops.lean ====
section
/-! DEFINITION. The named operations over memory, the stack, the keypad, the framebuffer and the program counter,
and the taking of a fault (spec 00_scope.md R12, R13; 20_memory.md; 10_state.md R27, R29, R33, R35;
60_exceptions.md R254). There is no return from a fault: the only exit is `LOAD` (R258,
Machine/Transactions.lean). -/

namespace Sys2Proof.Machine

/-! ## Memory -/

/-- What an address no cell lists reads as: the power-on image, the font at `FONT_BASE` and zero elsewhere
(10_state.md R50, 20_memory.md R68, R71 with the empty ROM; log 6). -/
def Memory.unlisted (a : Nat) : Byte :=
  if fontBase ≤ a ∧ a < fontBase + fontSize then fontByte (a - fontBase) else 0

/-- The canonical form: addresses strictly rising and inside memory, no cell equal to the power-on image. -/
abbrev Memory.wf (m : Memory) : Prop :=
  m.Pairwise (fun c d => c.1 < d.1) ∧ ∀ c ∈ m, c.1 < Config.memSize ∧ c.2 ≠ Memory.unlisted c.1

/-- The byte a memory holds at an address below 4096. -/
def Memory.read : Memory → Nat → Byte
  | [], a => Memory.unlisted a
  | (b, w) :: rest, a => if b = a then w else Memory.read rest a

/-- Every cell for address `a` taken out. -/
def Memory.erase (m : Memory) (a : Nat) : Memory := m.filter (fun c => c.1 != a)

/-- A cell put in before the first cell of a higher address. -/
def Memory.insert : Memory → Nat → Byte → Memory
  | [], a, b => [(a, b)]
  | (c, w) :: rest, a, b =>
    if a < c then (a, b) :: (c, w) :: rest else (c, w) :: Memory.insert rest a b

/-- A memory with one byte replaced; a byte equal to the power-on image is not listed. -/
def Memory.write (m : Memory) (a : Nat) (b : Byte) : Memory :=
  if b = Memory.unlisted a then m.erase a else (m.erase a).insert a b

/-- The cells of the image `LOAD(rom)` installs from address `a` on, in canonical form. The ROM lies above the
font, so the rule's "font first" never applies to a ROM byte (20_memory.md R71). -/
def Memory.ofRom (a : Nat) : List Byte → Memory
  | [] => []
  | b :: rest =>
    if b = Memory.unlisted a then Memory.ofRom (a + 1) rest else (a, b) :: Memory.ofRom (a + 1) rest

/-- `addr mod 4096`, a part of every access (00_scope.md R12, 20_memory.md R65). -/
def effAddr (a : Nat) : Nat := a % Config.memSize

/-- `MemRead(addr, 1)` (00_scope.md R12). -/
def State.readByte (s : State) (a : Nat) : Byte := s.mem.read (effAddr a)

/-- `MemWrite(addr, 1, b)` (00_scope.md R12). -/
def State.writeByte (s : State) (a : Nat) (b : Byte) : State :=
  { s with mem := s.mem.write (effAddr a) b }

/-- `MemRead(pc, 2)`: the opcode at `pc`, big-endian, each byte address reduced on its own
(00_scope.md R12, 20_memory.md R63). -/
def State.fetch (s : State) : Word := combine (s.readByte s.pc.toNat) (s.readByte (s.pc.toNat + 1))

/-- The opcode `op` stored where the next fetch reads, on a machine that is not stopped (for `withFetchWord`;
a stopped machine fetches nothing, R223; log 28). -/
def State.placeOpcode (s : State) (op : Word) : State :=
  let t := (s.writeByte s.pc.toNat (highByte op)).writeByte (s.pc.toNat + 1) (lowByte op)
  { t with fault := none }

/-! ## Program counter -/

/-- `pc <- target` (00_scope.md R13). -/
def State.setPc (s : State) (target : Word) : State := { s with pc := target }

/-- `next`: `pc <- (pc + 2) mod 65536` (00_scope.md R13, 10_state.md R27). -/
def State.advance (s : State) : State := s.setPc (s.pc + 2)

/-- `skip`: `pc <- (pc + 4) mod 65536` (00_scope.md R13, 10_state.md R27). -/
def State.skip (s : State) : State := s.setPc (s.pc + 4)

/-- `if c then skip else next`, the end of the six skip instructions (41_control_flow.md R161). -/
def State.skipIf (s : State) (c : Bool) : State := if c then s.skip else s.advance

/-! ## Faults -/

/-- `raise F`, the taking of a fault: nothing is written but `fault`, and `pc` stays at the instruction
(00_scope.md R13, 60_exceptions.md R254; log 8). -/
def State.raise (s : State) (f : Fault) : State := { s with fault := some f }

/-- The numeric code of the fault register, for a port that needs one (60_exceptions.md R250). -/
def faultCode : Option Fault → Nat
  | none => 0
  | some (.unknownOpcode _) => 1
  | some .stackOverflow => 2
  | some .stackUnderflow => 3

/-! ## Call stack -/

/-- The stack holds 16 entries (10_state.md R29). -/
def State.stackFull (s : State) : Bool := s.sp.val == Config.stackDepth

/-- The stack holds none. -/
def State.stackEmpty (s : State) : Bool := s.sp.val == 0

/-- The cell the next pop returns, `stack[sp - 1]`; for an empty stack, which no caller pops, cell 0. -/
def State.stackTop (s : State) : Word :=
  s.stack[s.sp.val - 1]'(show s.sp.val - 1 < 16 by have h : s.sp.val < 17 := s.sp.isLt; omega)

/-- `stack[sp] <- w; sp <- sp + 1` when the stack is not full, else nothing (41_control_flow.md R153). -/
def State.push (s : State) (w : Word) : State :=
  if h : s.sp.val < Config.stackDepth then
    { s with stack := s.stack.set s.sp.val w h, sp := ⟨s.sp.val + 1, Nat.succ_lt_succ h⟩ }
  else s

/-- `sp <- sp - 1`, the popped cell keeping its value (41_control_flow.md R151; log 9). -/
def State.pop (s : State) : State :=
  { s with sp := ⟨s.sp.val - 1, Nat.lt_of_le_of_lt (Nat.sub_le _ _) s.sp.isLt⟩ }

/-! ## Keypad and key-wait unit -/

/-- `keys[k]` (10_state.md R33). -/
def State.key (s : State) (k : Nibble) : Bool := s.keys[k.toNat]'k.isLt

/-- `keys[k] <- b`. -/
def State.setKey (s : State) (k : Nibble) (b : Bool) : State :=
  { s with keys := s.keys.set k.toNat b k.isLt }

/-- The three cells of the key-wait unit written together (10_state.md R33). -/
def State.setWait (s : State) (wait valid : Bool) (key : Nibble) : State :=
  { s with waitKey := wait, latchValid := valid, latchKey := key }

/-! ## Timers -/

/-- `DT <- b` (10_state.md R30). -/
def State.setDT (s : State) (b : Byte) : State := { s with dt := b }

/-- `ST <- b` (10_state.md R31). -/
def State.setST (s : State) (b : Byte) : State := { s with st := b }

/-- One timer counted down when `due`: minus 1 if above 0 (48_cycle_tick_host.md R224). -/
def countDown (due : Bool) (t : Byte) : Byte := if t = 0 then 0 else if due then t - 1 else t

/-! ## Framebuffer -/

/-- `fb[y mod 32][x mod 64]`: every position wraps (10_state.md R35, 43_graphics.md R191). -/
def Framebuffer.pixel (fb : Framebuffer) (y x : Nat) : Bool :=
  (fb[y % Config.fbHeight]'(Nat.mod_lt _ (by decide)))[x % Config.fbWidth]'(Nat.mod_lt _ (by decide))

/-- `fb[y][x] <- fb[y][x] XOR 1`, the position wrapped (43_graphics.md R191). -/
def Framebuffer.flip (fb : Framebuffer) (y x : Nat) : Framebuffer :=
  let row := fb[y % Config.fbHeight]'(Nat.mod_lt _ (by decide))
  fb.set (y % Config.fbHeight)
    (row.set (x % Config.fbWidth) (!(row[x % Config.fbWidth]'(Nat.mod_lt _ (by decide))))
      (Nat.mod_lt _ (by decide)))
    (Nat.mod_lt _ (by decide))

/-- Every pixel off (43_graphics.md R190). -/
def Framebuffer.clear : Framebuffer :=
  Vector.replicate Config.fbHeight (Vector.replicate Config.fbWidth false)

/-- The framebuffer replaced. -/
def State.setFb (s : State) (fb : Framebuffer) : State := { s with fb := fb }

/-! ## The model's counters -/

/-- One more random byte drawn (log 3). -/
def State.nextDraw (s : State) : State := { s with draws := s.draws + 1 }

/-- One more instruction cycle completed (log 1). -/
def State.countCycle (s : State) : State := { s with cycles := s.cycles + 1 }

end Sys2Proof.Machine
end

