-- ==== Sys2Proof/Machine/Operands.lean ====
section
/-! DEFINITION. Operand forms: a general register (spec 10_state.md R20, 30_encoding.md R92), the index register
and the one addressing mode "`I` plus an implicit offset" (42_memory_index.md R180), the low nibble of a
register (D13), immediates (30_encoding.md R93) and the random draw (R131). -/

namespace Sys2Proof.Machine

/-- `V[x]` (10_state.md R20). -/
def State.reg (s : State) (x : Reg) : Byte := s.v[x.toNat]'x.isLt

/-- `V[x] <- b` (00_scope.md R10). -/
def State.setReg (s : State) (x : Reg) (b : Byte) : State := { s with v := s.v.set x.toNat b x.isLt }

/-- `V[x][3:0]`, the digit of `FX29` and the key of `EX9E` and `EXA1` (42_memory_index.md R172,
44_input.md R200; log 19). -/
def State.regNibble (s : State) (x : Reg) : Nibble := (s.reg x).extractLsb' 0 4

/-- `I <- w` (10_state.md R24). -/
def State.setI (s : State) (w : Word) : State := { s with i := w }

/-- The address of byte `k` of a data access before the access reduces it: `I + k` (42_memory_index.md R180). -/
def State.dataAddr (s : State) (k : Nat) : Nat := s.i.toNat + k

/-- `MemRead(I + k, 1)`. -/
def State.readAtI (s : State) (k : Nat) : Byte := s.readByte (s.dataAddr k)

/-- `MemWrite(I + k, 1, b)`. -/
def State.writeAtI (s : State) (k : Nat) (b : Byte) : State := s.writeByte (s.dataAddr k) b

/-- `nnn` zero-extended to 16 bits (30_encoding.md R93). -/
def addrImm (nnn : Addr12) : Word := nnn.setWidth 16

/-- `zext_16(V[x])` (41_control_flow.md R158, 42_memory_index.md R171). -/
def State.regWord (s : State) (x : Reg) : Word := (s.reg x).setWidth 16

/-- `draw8()`, the next free byte (00_scope.md R13, 40_arithmetic_logic.md R131; log 3). -/
def State.draw (s : State) : Byte := Config.rndByte s.draws

end Sys2Proof.Machine
end

