-- ==== Sys2Proof/Machine/Flags.lean ====
section
/-! DEFINITION. The flag computations, all of them (spec 10_state.md R23, 40_arithmetic_logic.md R141). A flag is
written to `V[15]` as exactly 0x00 or 0x01, after the result, so it wins when `x = 15` (R14, D6; log 13). -/

namespace Sys2Proof.Machine

/-- Carry of `a + b`: 1 iff the sum exceeds 255 (R126). -/
def carryFlag (a b : Byte) : Bool := decide (255 < a.toNat + b.toNat)

/-- Not-borrow of `a - b`: 1 iff `a >= b`, equality included (R127, R129, D7; log 14). -/
def notBorrowFlag (a b : Byte) : Bool := decide (b.toNat ≤ a.toNat)

/-- The bit a right shift by one drops, bit 0 (R128). -/
def lowBitFlag (a : Byte) : Bool := a.getLsbD 0

/-- The bit a left shift by one drops, bit 7 (R130). -/
def highBitFlag (a : Byte) : Bool := a.getLsbD 7

/-- A flag as a register value: 0x00 or 0x01 (10_state.md R23). -/
def flagByte (f : Bool) : Byte := if f then 1 else 0

/-- `V[15] <- flag` (10_state.md R23). -/
def State.setFlag (s : State) (f : Bool) : State := s.setReg Reg.vf (flagByte f)

/-- The end of a flag-writing arithmetic instruction: result, then flag, then `next` (00_scope.md R14). -/
def State.resultFlag (s : State) (x : Reg) (result : Byte) (f : Bool) : State :=
  ((s.setReg x result).setFlag f).advance

/-- The end of an instruction that only writes a register: result, then `next`. -/
def State.result (s : State) (x : Reg) (b : Byte) : State := (s.setReg x b).advance

end Sys2Proof.Machine
end

