-- ==== Sys2Proof/Machine/Arith.lean ====
section
/-! DEFINITION. The meanings of the arithmetic, logic and random instructions (spec 40_arithmetic_logic.md R120 to
R131). Each ends with `next`; none raises. Operands are read from the state before any write (00_scope.md R14). -/

namespace Sys2Proof.Machine

/-- `6XNN`, `LD Vx, nn` (R120). -/
def execLdImm (x : Reg) (nn : Byte) (s : State) : Host.Outcome State Fault Refusal :=
  .next (s.result x nn)

/-- `7XNN`, `ADD Vx, nn`: no flag (R121, D5; log 12). -/
def execAddImm (x : Reg) (nn : Byte) (s : State) : Host.Outcome State Fault Refusal :=
  .next (s.result x (s.reg x + nn))

/-- `8XY0`, `LD Vx, Vy` (R122). -/
def execLdReg (x y : Reg) (s : State) : Host.Outcome State Fault Refusal :=
  .next (s.result x (s.reg y))

/-- `8XY1`, `OR Vx, Vy`: no flag (R123, D9; log 16). -/
def execOrReg (x y : Reg) (s : State) : Host.Outcome State Fault Refusal :=
  .next (s.result x (s.reg x ||| s.reg y))

/-- `8XY2`, `AND Vx, Vy`: no flag (R124, D9; log 16). -/
def execAndReg (x y : Reg) (s : State) : Host.Outcome State Fault Refusal :=
  .next (s.result x (s.reg x &&& s.reg y))

/-- `8XY3`, `XOR Vx, Vy`: no flag (R125, D9; log 16). -/
def execXorReg (x y : Reg) (s : State) : Host.Outcome State Fault Refusal :=
  .next (s.result x (s.reg x ^^^ s.reg y))

/-- `8XY4`, `ADD Vx, Vy`: `VF` is the carry (R126). -/
def execAddReg (x y : Reg) (s : State) : Host.Outcome State Fault Refusal :=
  .next (s.resultFlag x (s.reg x + s.reg y) (carryFlag (s.reg x) (s.reg y)))

/-- `8XY5`, `SUB Vx, Vy`: `VF` is not-borrow (R127). -/
def execSubReg (x y : Reg) (s : State) : Host.Outcome State Fault Refusal :=
  .next (s.resultFlag x (s.reg x - s.reg y) (notBorrowFlag (s.reg x) (s.reg y)))

/-- `8XY6`, `SHR Vx`: `V[x]` in place, `y` ignored, `VF` is the old bit 0 (R128, D8; log 15). -/
def execShr (x _y : Reg) (s : State) : Host.Outcome State Fault Refusal :=
  .next (s.resultFlag x (s.reg x >>> 1) (lowBitFlag (s.reg x)))

/-- `8XY7`, `SUBN Vx, Vy`: `V[y]` minus `V[x]`, `VF` is not-borrow (R129). -/
def execSubn (x y : Reg) (s : State) : Host.Outcome State Fault Refusal :=
  .next (s.resultFlag x (s.reg y - s.reg x) (notBorrowFlag (s.reg y) (s.reg x)))

/-- `8XYE`, `SHL Vx`: `V[x]` in place, `y` ignored, `VF` is the old bit 7 (R130, D8; log 15). -/
def execShl (x _y : Reg) (s : State) : Host.Outcome State Fault Refusal :=
  .next (s.resultFlag x (s.reg x <<< 1) (highBitFlag (s.reg x)))

/-- `CXNN`, `RND Vx, nn`: a fresh free byte ANDed with `nn` (R131, D11; log 3). -/
def execRnd (x : Reg) (nn : Byte) (s : State) : Host.Outcome State Fault Refusal :=
  .next (s.nextDraw.result x (s.draw &&& nn))

end Sys2Proof.Machine
end

