-- ==== Sys2Proof/Machine/Control.lean ====
section
/-! DEFINITION. The meanings of the control-flow instructions (spec 41_control_flow.md R150 to R158, R161). None
writes a general register. -/

namespace Sys2Proof.Machine

/-- `00EE`, `RET`: pop into `pc`; with an empty stack, raise `StackUnderflow` (R151). -/
def execRet (s : State) : Host.Outcome State Fault Refusal :=
  .next (if s.stackEmpty then s.raise .stackUnderflow else s.pop.setPc s.stackTop)

/-- `0NNN`, `SYS nnn`: unsupported on this core, raises `UnknownOpcode(0x0nnn)` (R150, D3; log 11). -/
def execSys (nnn : Addr12) (s : State) : Host.Outcome State Fault Refusal :=
  .next (s.raise (.unknownOpcode (encode (.sys nnn))))

/-- `1NNN`, `JP nnn` (R152). -/
def execJp (nnn : Addr12) (s : State) : Host.Outcome State Fault Refusal :=
  .next (s.setPc (addrImm nnn))

/-- `2NNN`, `CALL nnn`: push `pc + 2` and jump; with 16 entries, raise `StackOverflow` (R153, D18; log 9). -/
def execCall (nnn : Addr12) (s : State) : Host.Outcome State Fault Refusal :=
  .next (if s.stackFull then s.raise .stackOverflow else (s.push (s.pc + 2)).setPc (addrImm nnn))

/-- `3XNN`, `SE Vx, nn` (R154). -/
def execSeImm (x : Reg) (nn : Byte) (s : State) : Host.Outcome State Fault Refusal :=
  .next (s.skipIf (s.reg x == nn))

/-- `4XNN`, `SNE Vx, nn` (R155). -/
def execSneImm (x : Reg) (nn : Byte) (s : State) : Host.Outcome State Fault Refusal :=
  .next (s.skipIf (s.reg x != nn))

/-- `5XY0`, `SE Vx, Vy` (R156). -/
def execSeReg (x y : Reg) (s : State) : Host.Outcome State Fault Refusal :=
  .next (s.skipIf (s.reg x == s.reg y))

/-- `9XY0`, `SNE Vx, Vy` (R157). -/
def execSneReg (x y : Reg) (s : State) : Host.Outcome State Fault Refusal :=
  .next (s.skipIf (s.reg x != s.reg y))

/-- `BNNN`, `JP V0, nnn`: `pc` is `nnn + V[0]`, kept unreduced (R158, D10; log 17). -/
def execJpV0 (nnn : Addr12) (s : State) : Host.Outcome State Fault Refusal :=
  .next (s.setPc (addrImm nnn + s.regWord 0))

end Sys2Proof.Machine
end

