-- ==== Sys2Proof/Machine/Graphics.lean ====
section
/-! DEFINITION. The meanings of the graphics instructions (spec 43_graphics.md R190 to R193), the sprite loops
written as the rule writes them: rows from 0, in each row columns from 0. -/

namespace Sys2Proof.Machine

/-- `00E0`, `CLS` (R190, D26; log 25). -/
def execCls (s : State) : Host.Outcome State Fault Refusal :=
  .next (s.setFb Framebuffer.clear).advance

/-- Sprite column `c` of a row byte `b`: bit `7 - c`, so bit 7 is the leftmost pixel (R191, D17; log 22). -/
def spriteBit (b : Byte) (c : Nat) : Bool := b.getLsbD (7 - c)

/-- One sprite pixel XORed on at `(px, py)`, beside the collision so far: a 0 bit changes nothing, a 1 bit flips
the pixel and collides if it was on (R191). -/
def drawPixel (bit : Bool) (py px : Nat) (acc : Framebuffer × Bool) : Framebuffer × Bool :=
  match acc with
  | (fb, hit) => if bit then (fb.flip py px, hit || fb.pixel py px) else (fb, hit)

/-- Sprite columns 0 up to, not including, `count` of one row, its left edge at column `x0` (R191). -/
def drawColumns (b : Byte) (py x0 : Nat) (acc : Framebuffer × Bool) : Nat → Framebuffer × Bool
  | 0 => acc
  | c + 1 => drawPixel (spriteBit b c) py (x0 + c) (drawColumns b py x0 acc c)

/-- Sprite rows 0 up to, not including, `count`, row `r` read from `I + r`; no row, no memory read (R191, R192). -/
def State.drawRows (s : State) (y0 x0 : Nat) : Nat → Framebuffer × Bool
  | 0 => (s.fb, false)
  | r + 1 => drawColumns (s.readAtI r) (y0 + r) x0 (s.drawRows y0 x0 r) 8

/-- `DXYN`, `DRW Vx, Vy, n`: the start position is read, reduced modulo 64 and 32, before `V[15]` is written with
the collision (R191, R192, D17; log 22). -/
def execDrw (x y : Reg) (n : Nibble) (s : State) : Host.Outcome State Fault Refusal :=
  let drawn := s.drawRows ((s.reg y).toNat % Config.fbHeight) ((s.reg x).toNat % Config.fbWidth) n.toNat
  .next ((s.setFb drawn.1).setFlag drawn.2).advance

end Sys2Proof.Machine
end

