-- ==== Sys2Proof/Machine/Index.lean ====
section
/-! DEFINITION. The meanings of the index-register and memory instructions (spec 42_memory_index.md R170 to R175,
R180). None raises, none writes a flag, and each ends with `next`. -/

namespace Sys2Proof.Machine

/-- `ANNN`, `LD I, nnn` (R170). -/
def execLdI (nnn : Addr12) (s : State) : Host.Outcome State Fault Refusal :=
  .next (s.setI (addrImm nnn)).advance

/-- `FX1E`, `ADD I, Vx`: modulo 65536, no flag (R171, D12; log 18). -/
def execAddI (x : Reg) (s : State) : Host.Outcome State Fault Refusal :=
  .next (s.setI (s.i + s.regWord x)).advance

/-- The address of the glyph of a digit, `FONT_BASE + 5 * d` (R172). -/
def glyphAddr (d : Nibble) : Word := BitVec.ofNat 16 (fontBase + 5 * d.toNat)

/-- `FX29`, `LD F, Vx` (R172, D13; log 19). -/
def execLdF (x : Reg) (s : State) : Host.Outcome State Fault Refusal :=
  .next (s.setI (glyphAddr (s.regNibble x))).advance

/-- The hundreds digit of a byte (R173). -/
def bcdHundreds (b : Byte) : Byte := BitVec.ofNat 8 (b.toNat / 100)

/-- The tens digit of a byte (R173). -/
def bcdTens (b : Byte) : Byte := BitVec.ofNat 8 (b.toNat / 10 % 10)

/-- The ones digit of a byte (R173). -/
def bcdOnes (b : Byte) : Byte := BitVec.ofNat 8 (b.toNat % 10)

/-- `FX33`, `LD B, Vx`: the three decimal digits at `I`, `I + 1`, `I + 2` (R173, D15; log 20). -/
def execLdB (x : Reg) (s : State) : Host.Outcome State Fault Refusal :=
  let b := s.reg x
  .next (((s.writeAtI 0 (bcdHundreds b)).writeAtI 1 (bcdTens b)).writeAtI 2 (bcdOnes b)).advance

/-- `MemWrite(I + k, 1, V[k])` for `k` from 0 up to, not including, `count`, ascending (R174). -/
def State.storeUpTo (s : State) : Nat → State
  | 0 => s
  | k + 1 => (s.storeUpTo k).writeAtI k (s.reg (BitVec.ofNat 4 k))

/-- `FX55`, `LD [I], Vx`: `V[0]` to `V[x]` inclusive; `I` unchanged (R174, D15; log 20). -/
def execStoreRegs (x : Reg) (s : State) : Host.Outcome State Fault Refusal :=
  .next (s.storeUpTo (x.toNat + 1)).advance

/-- `V[k] <- MemRead(I + k, 1)` for `k` from 0 up to, not including, `count`, ascending (R175). -/
def State.loadUpTo (s : State) : Nat → State
  | 0 => s
  | k + 1 => (s.loadUpTo k).setReg (BitVec.ofNat 4 k) (s.readAtI k)

/-- `FX65`, `LD Vx, [I]`: `V[0]` to `V[x]` inclusive; `I` unchanged (R175, D15; log 20). -/
def execLoadRegs (x : Reg) (s : State) : Host.Outcome State Fault Refusal :=
  .next (s.loadUpTo (x.toNat + 1)).advance

end Sys2Proof.Machine
end

