-- ==== Sys2Proof/Machine/Input.lean ====
section
/-! DEFINITION. The meanings of the keypad instructions (spec 44_input.md R200 to R203). -/

namespace Sys2Proof.Machine

/-- `EX9E`, `SKP Vx`: skip if the key `V[x][3:0]` is held (R200, R201). -/
def execSkp (x : Reg) (s : State) : Host.Outcome State Fault Refusal :=
  .next (s.skipIf (s.key (s.regNibble x)))

/-- `EXA1`, `SKNP Vx`: skip if the key `V[x][3:0]` is not held (R200, R202). -/
def execSknp (x : Reg) (s : State) : Host.Outcome State Fault Refusal :=
  .next (s.skipIf (!s.key (s.regNibble x)))

/-- `FX0A`, `LD Vx, K`: arm the wait; while no press is latched do nothing; then load the latched key's index and
go on (R203, D16; log 21). The latch is filled by `KEY_DOWN` (48_cycle_tick_host.md R230). -/
def execLdVxK (x : Reg) (s : State) : Host.Outcome State Fault Refusal :=
  .next (if !s.waitKey then s.setWait true false 0
    else if !s.latchValid then s
    else ((s.setReg x (s.latchKey.setWidth 8)).setWait false false 0).advance)

end Sys2Proof.Machine
end

