-- ==== Sys2Proof/Machine/Timer.lean ====
section
/-! DEFINITION. The meanings of the timer instructions (spec 45_timers.md R210 to R212). The countdown is no
instruction: it is the end of a tick (48_cycle_tick_host.md R224, Machine/Cycle.lean). -/

namespace Sys2Proof.Machine

/-- `FX07`, `LD Vx, DT` (R210). -/
def execLdVxDT (x : Reg) (s : State) : Host.Outcome State Fault Refusal :=
  .next (s.setReg x s.dt).advance

/-- `FX15`, `LD DT, Vx` (R211). -/
def execLdDTVx (x : Reg) (s : State) : Host.Outcome State Fault Refusal :=
  .next (s.setDT (s.reg x)).advance

/-- `FX18`, `LD ST, Vx` (R212). -/
def execLdSTVx (x : Reg) (s : State) : Host.Outcome State Fault Refusal :=
  .next (s.setST (s.reg x)).advance

end Sys2Proof.Machine
end

