-- ==== Sys2Proof/Machine/Cycle.lean ====
section
/-! DEFINITION. The instruction cycle and what ends a tick (spec 48_cycle_tick_host.md R221 to R225), the parts
`step` and the `TICK` transaction are made of. -/

namespace Sys2Proof.Machine

/-- One instruction cycle: fetch, decode, execute; a word of no row raises `UnknownOpcode(op)` (R221). Performed
only on a machine that is not stopped; its callers see to that. -/
def State.cycle (s : State) : Host.Outcome State Fault Refusal :=
  match decode s.fetch with
  | .ok i => exec i s
  | .error _ => .next (s.raise (.unknownOpcode s.fetch))

/-- The end-of-tick decrement of both timers, when `due` (R224). -/
def State.countTimers (s : State) (due : Bool) : State :=
  { s with dt := countDown due s.dt, st := countDown due s.st }

/-- The cycle just counted was the last of its tick of `perTick` cycles (R222; log 1). -/
def State.tickEnds (s : State) (perTick : Nat) : Bool := s.cycles % perTick == 0

/-- What follows a cycle inside a run of ticks of `perTick` cycles: after a raise nothing, neither the count nor
the timers (R222, R224); else the cycle is counted and, if it was its tick's last, both timers go down. -/
def State.afterCycle (perTick : Nat) (s : State) : State :=
  if s.fault.isSome then s else s.countCycle.countTimers (s.countCycle.tickEnds perTick)

/-- One step of a machine whose ticks are `perTick` cycles: the cycle and what follows it. A stopped machine runs
no cycle and answers the recorded fault (R221, R223; log 8). -/
def State.stepWith (perTick : Nat) (s : State) : Host.Outcome State Fault Refusal :=
  match s.fault with
  | some f => .fault f
  | none =>
    match s.cycle with
    | .next t => .next (t.afterCycle perTick)
    | .fault f => .fault f
    | .refused r => .refused r

end Sys2Proof.Machine
end

