-- ==== Sys2Proof/Machine/Step.lean ====
section
/-! DEFINITION. One step of CORE: one instruction cycle, with the end-of-tick decrement after every
`CYCLES_PER_TICK`-th (spec 48_cycle_tick_host.md R221, R222, R224; log 1). -/

namespace Sys2Proof.Machine

/-- One step, for the machine's own open `CYCLES_PER_TICK`. -/
def step : State → Host.Outcome State Fault Refusal := State.stepWith Config.cyclesPerTick

/-- `s` with the instruction of a table word stored where the next step fetches. -/
def State.withFetchWord (s : State) (nbits w : Nat) : State := s.placeOpcode (tableWord nbits w)

end Sys2Proof.Machine
end

