-- ==== Sys2Proof/Machine/Transactions.lean ====
section
/-! DEFINITION. The six transactions through which the host acts on CORE (spec 48_cycle_tick_host.md R220 to R235).
Each is atomic and none falls inside another (00_scope.md R15, 20_memory.md R76; log 24, log 27), so each is a
function from the state before to the state after and the response. -/

namespace Sys2Proof.Machine

/-- A transaction and its argument (R220). Key codes are any integer (R232). -/
inductive Transaction where
  /-- `LOAD(rom)`. -/
  | load (rom : List Byte)
  /-- `TICK`. -/
  | tick
  /-- `KEY_DOWN(code)`. -/
  | keyDown (code : Int)
  /-- `KEY_UP(code)`. -/
  | keyUp (code : Int)
  /-- `FB_SNAPSHOT`. -/
  | fbSnapshot
  /-- `SOUND_ACTIVE`. -/
  | soundActive
  deriving DecidableEq, Repr

/-- What CORE gives back (R220, R235, R255). -/
inductive Response where
  /-- `Ok` of `LOAD` and `TICK`. -/
  | ok
  /-- The fault a `TICK` stopped on, or found (R223, R235). -/
  | fault (f : Fault)
  /-- `RomTooLarge`, a response only, never a value of the fault register (R227, 60_exceptions.md R255). -/
  | romTooLarge
  /-- The 2048 bits of `fb` by row and column (R233; log 30). -/
  | grid (fb : Framebuffer)
  /-- The predicate `ST > 0` (R234). -/
  | sound (active : Bool)
  /-- `KEY_DOWN` and `KEY_UP` give nothing back. -/
  | nothing
  deriving DecidableEq, Repr

/-! ## LOAD -/

/-- `len(rom) <= 3584` (R226). -/
def romFits (rom : List Byte) : Bool := decide (rom.length ≤ Config.maxRom)

/-- The state after a successful `LOAD`: every piece of state at its reset value, memory at the image of `rom`
(R226, 10_state.md R50, R51, 20_memory.md R71). The count of draws is no state of CORE and goes on, so that a
later run's draws stay free (log 3). -/
def State.loaded (s : State) (rom : List Byte) : State :=
  { State.reset with mem := Memory.ofRom Config.progBase rom, draws := s.draws }

/-- `LOAD(rom)`: all of it, or on rejection nothing at all (R226, R227). -/
def State.load (s : State) (rom : List Byte) : State × Response :=
  if romFits rom then (s.loaded rom, .ok) else (s, .romTooLarge)

/-! ## TICK -/

/-- "repeat `k` times: Cycle(); if fault != None then stop at once" (R222), counting the completed cycles. -/
def State.batch : Nat → State → Host.Outcome State Fault Refusal
  | 0, s => .next s
  | k + 1, s =>
    match s.cycle with
    | .next t => if t.fault.isSome then .next t else State.batch k t.countCycle
    | .fault f => .fault f
    | .refused r => .refused r

/-- `TICK` with `CYCLES_PER_TICK = perTick`: the batch, then both timers down, unless the machine is or becomes
stopped (R222 to R225). -/
def State.tickWith (perTick : Nat) (s : State) : Host.Outcome State Fault Refusal :=
  if s.fault.isSome then .next s
  else
    match s.batch perTick with
    | .next t => .next (if t.fault.isSome then t else t.countTimers true)
    | .fault f => .fault f
    | .refused r => .refused r

/-- The response of a `TICK`, a function of the fault register after it (R235). -/
def State.tickResponse (s : State) : Response :=
  match s.fault with
  | none => .ok
  | some f => .fault f

/-! ## Key events -/

/-- `KEY_DOWN` of key `k`: a key that was not held is latched if a wait has nothing latched; then it is held
(R230, D16; log 21). -/
def State.pressKey (s : State) (k : Nibble) : State :=
  (if !s.key k && s.waitKey && !s.latchValid then s.setWait s.waitKey true k else s).setKey k true

/-- The key a code names, if it is 0 to 15 (R232). -/
def keyOfCode (code : Int) : Option Nibble :=
  if 0 ≤ code ∧ code ≤ 15 then some (BitVec.ofNat 4 code.toNat) else none

/-- `KEY_DOWN(code)`; other codes change nothing (R230, R232). -/
def State.keyDown (s : State) (code : Int) : State :=
  match keyOfCode code with
  | some k => s.pressKey k
  | none => s

/-- `KEY_UP(code)`: the key is not held; a latched press stays (R231). Other codes change nothing (R232). -/
def State.keyUp (s : State) (code : Int) : State :=
  match keyOfCode code with
  | some k => s.setKey k false
  | none => s

/-! ## Observations -/

/-- `SOUND_ACTIVE = (ST > 0)` (R234, 10_state.md R31). -/
def State.soundActive (s : State) : Bool := decide (0 < s.st.toNat)

/-- `FB_SNAPSHOT`: the framebuffer (R233). -/
def State.snapshot (s : State) : Framebuffer := s.fb

/-! ## All six -/

/-- One transaction on a machine whose ticks are `perTick` cycles (R220). -/
def State.transactWith (perTick : Nat) (t : Transaction) (s : State) :
    Host.Outcome (State × Response) Fault Refusal :=
  match t with
  | .load rom => .next (s.load rom)
  | .tick =>
    match s.tickWith perTick with
    | .next t => .next (t, t.tickResponse)
    | .fault f => .fault f
    | .refused r => .refused r
  | .keyDown code => .next (s.keyDown code, .nothing)
  | .keyUp code => .next (s.keyUp code, .nothing)
  | .fbSnapshot => .next (s, .grid s.snapshot)
  | .soundActive => .next (s, .sound s.soundActive)

/-- A sequence of transactions, in the one total order of R15. -/
def State.transactAll (perTick : Nat) : List Transaction → State → Host.Outcome State Fault Refusal
  | [], s => .next s
  | t :: rest, s =>
    match s.transactWith perTick t with
    | .next (s', _) => State.transactAll perTick rest s'
    | .fault f => .fault f
    | .refused r => .refused r

end Sys2Proof.Machine
end

