-- ==== Sys2Proof/Safety.lean ====
section
/-! DEFINITION. The terms the statements use: the invariant of CORE (spec 10_state.md R33, R52), the reachable
states, the kinds of state a claim can speak of (48_cycle_tick_host.md R237), and what two states share. -/

namespace Sys2Proof.Machine

/-- The opcode at `pc` is an `FX0A` (10_state.md R33). -/
def State.atKeyWait (s : State) : Bool :=
  match decode s.fetch with
  | .ok (.ldVxK _) => true
  | _ => false

/-- The invariant (10_state.md R33, R52): memory is in canonical form; a latched press needs a wait; a wait needs
a running machine standing at an `FX0A`; an empty latch holds key 0. The ranges of R52 hold by the types. -/
abbrev State.Inv (s : State) : Prop :=
  s.mem.wf ∧
  (s.latchValid = true → s.waitKey = true) ∧
  (s.waitKey = true → s.fault = none) ∧
  (s.latchValid = false → s.latchKey = 0) ∧
  (s.waitKey = true → s.atKeyWait = true)

/-- The states reached from power-on by transactions (10_state.md R52). -/
inductive Reachable (perTick : Nat) : State → Prop where
  /-- Power-on (48_cycle_tick_host.md R228). -/
  | powerOn : Reachable perTick State.reset
  /-- One more transaction. -/
  | transact (s s' : State) (t : Transaction) (r : Response) :
      Reachable perTick s → s.transactWith perTick t = .next (s', r) → Reachable perTick s'

/-- (a) of R237: stopped, left only by `LOAD`. -/
def State.isFaulted (s : State) : Bool := s.fault.isSome

/-- (b) of R237: waiting for a key press. -/
def State.isWaiting (s : State) : Bool := s.waitKey

/-- (c) of R237: at a jump to itself, the conventional halt of a program. -/
def State.isSpinning (s : State) : Bool :=
  match decode s.fetch with
  | .ok (.jp nnn) => addrImm nnn == s.pc
  | _ => false

/-- (d) of R237: any other state. -/
def State.isRunning (s : State) : Bool := !s.isFaulted && !s.isWaiting && !s.isSpinning

/-- A tick boundary of a machine whose ticks are `perTick` cycles: no `TICK` is in progress (log 1). -/
def State.betweenTicks (s : State) (perTick : Nat) : Bool := s.cycles % perTick == 0

/-- The general registers an instruction can write, row by row of the table of 10_state.md R21. -/
def writesReg (i : Instr) (r : Reg) : Bool :=
  match i with
  | .ldImm x _ | .addImm x _ | .ldReg x _ | .orReg x _ | .andReg x _ | .xorReg x _ => r == x
  | .addReg x _ | .subReg x _ | .subn x _ | .shr x _ | .shl x _ => r == x || r == Reg.vf
  | .rnd x _ | .ldVxDT x | .ldVxK x => r == x
  | .drw _ _ _ => r == Reg.vf
  | .loadRegs x => decide (r.toNat ≤ x.toNat)
  | _ => false

/-- Every byte of memory reads the same. -/
def State.SameBytes (s t : State) : Prop := ∀ a, t.readByte a = s.readByte a

/-- Everything but the `V` registers and `pc` is the same, every byte of memory included. -/
def State.SameButRegsPc (s t : State) : Prop :=
  { t with v := s.v, pc := s.pc } = s ∧ State.SameBytes s t

/-- Everything but `pc` is the same, every byte of memory included. -/
def State.SameButPc (s t : State) : Prop := { t with pc := s.pc } = s ∧ State.SameBytes s t

/-- Everything but memory and `pc` is the same. -/
def State.SameButMemPc (s t : State) : Prop := { t with mem := s.mem, pc := s.pc } = s

/-- How far position `p` lies after `start` on a ring of `m` positions. -/
def wrapOffset (m start p : Nat) : Nat := (p % m + m - start % m) % m

/-- The sprite pixel that a draw of `n` rows from `(x0, y0)` lays over `fb[y][x]`, off where no sprite pixel lies:
bit `7 - c` of the byte at `I + r` for the pixel `c` columns and `r` rows into the sprite, each counted around its
edge (43_graphics.md R191). -/
def State.spriteOver (s : State) (y0 x0 n y x : Nat) : Bool :=
  decide (wrapOffset 32 y0 y < n) && decide (wrapOffset 64 x0 x < 8) &&
    (s.readByte (s.i.toNat + wrapOffset 32 y0 y)).getLsbD (7 - wrapOffset 64 x0 x)

/-- The stack of `t` has the depth and the entries in use of that of `s`, and all else is the same; cells at
`sp` and above may differ (10_state.md R29). -/
def State.SameButStaleCells (s t : State) : Prop :=
  { t with stack := s.stack } = s ∧
  ∀ (j : Nat) (h : j < Config.stackDepth), j < s.sp.val → t.stack[j] = s.stack[j]

/-- Two outcomes of a step that nothing but stale stack cells tells apart. -/
def OutcomesSameButStale :
    Host.Outcome State Fault Refusal → Host.Outcome State Fault Refusal → Prop
  | .next s, .next t => s.SameButStaleCells t
  | .fault f, .fault g => f = g
  | .refused p, .refused q => p = q
  | _, _ => False

end Sys2Proof.Machine
end

