-- ==== Sys2Proof/Certificates/Slice0/Obligations.lean ====
section
/-! DEFINITION. The statements for the provers, from the numbered rules of spec/. Where a clause rests on a decision
the spec marks as its own (92_eei_decisions.md) or on a choice of the model, the docstring names it and the log
entry. `∃ t, exec i s = .next t ∧ …` says that the instruction completes, and with what next state. -/

open Sys2Proof Sys2Proof.Machine

/-! ## Reset and the invariant -/

/-- What reset leaves, every piece of state (10_state.md R50). That power-on is the load of the empty ROM is D21
(log 7), the stack cells D18 (log 9), the zero bytes D20 (log 6), the font's place and bytes D14 (log 5). -/
def Obligations.ResetStateIsAllZeroButPcAndFont : Prop :=
  (∀ r, State.reset.reg r = 0) ∧ State.reset.i = 0 ∧ State.reset.pc = 0x200 ∧
  State.reset.sp.val = 0 ∧ (∀ (j : Nat) (h : j < 16), State.reset.stack[j] = 0) ∧
  State.reset.dt = 0 ∧ State.reset.st = 0 ∧ (∀ k, State.reset.key k = false) ∧
  (∀ y x, State.reset.fb.pixel y x = false) ∧
  State.reset.waitKey = false ∧ State.reset.latchValid = false ∧ State.reset.latchKey = 0 ∧
  State.reset.fault = none ∧
  (∀ a, a < 80 → State.reset.readByte a = fontByte a) ∧
  (∀ a, 80 ≤ a → a < 4096 → State.reset.readByte a = 0)

/-- The invariant holds at reset (10_state.md R33, R52). -/
def Obligations.ResetMeetsTheInvariant : Prop := State.reset.Inv

/-- Every step keeps the invariant: memory stays canonical, a latched press needs a wait, a wait needs a running
machine standing at its `FX0A` (10_state.md R33, R52, both derived; the latch is D16, log 21). -/
def Obligations.StepKeepsTheInvariant : Prop :=
  ∀ s t : State, s.Inv → step s = .next t → t.Inv

/-- Every transaction of the host keeps the invariant, whatever `CYCLES_PER_TICK` (10_state.md R52, R51). -/
def Obligations.TransactionsKeepTheInvariant : Prop :=
  ∀ (perTick : Nat) (t : Transaction) (s s' : State) (r : Response),
    s.Inv → s.transactWith perTick t = .next (s', r) → s'.Inv

/-! ## Encoding -/

/-- Decoding an encoded well-formed instruction gives it back, as a word and as bytes with anything after
(30_encoding.md R90, R91, R94, R95; the table is D2, log 10). -/
def Obligations.DecodeOfEncodeIsTheInstruction : Prop :=
  ∀ i : Instr, i.wf = true →
    decode (encode i) = .ok i ∧ ∀ rest, decodeBytes (encodeBytes i ++ rest) = .ok (i, rest)

/-- A word that decodes is the word its instruction encodes to, and the instruction is well-formed: no bit of a word
is dropped, the ignored `y` of the shifts included (30_encoding.md R92, R94, R98; D2, log 10). -/
def Obligations.EncodeOfDecodeIsTheWord : Prop :=
  ∀ (op : Word) (i : Instr), decode op = .ok i → encode i = op ∧ i.wf = true

/-- The illegal words are exactly those of the table of 30_encoding.md R96 (strict decode: D4, log 10). -/
def Obligations.IllegalWordsAreTheTable : Prop :=
  ∀ op : Word, (∃ r, decode op = .error r) ↔
    (fieldG op = 5 ∧ fieldN op ≠ 0) ∨
    (fieldG op = 8 ∧ fieldN op ∈ [8#4, 9#4, 0xA#4, 0xB#4, 0xC#4, 0xD#4, 0xF#4]) ∨
    (fieldG op = 9 ∧ fieldN op ≠ 0) ∨
    (fieldG op = 0xE ∧ fieldNN op ∉ [0x9E#8, 0xA1#8]) ∨
    (fieldG op = 0xF ∧
      fieldNN op ∉ [0x07#8, 0x0A#8, 0x15#8, 0x18#8, 0x1E#8, 0x29#8, 0x33#8, 0x55#8, 0x65#8])

/-- A word that decodes matches its instruction's row, and no other row but `0NNN` where the two exact words have
priority (30_encoding.md R94; D2, D4, log 10). -/
def Obligations.RowsAreDisjointButForThePriority : Prop :=
  ∀ (op : Word) (i : Instr), decode op = .ok i →
    op &&& (tableRow i).1 = (tableRow i).2 ∧
    ∀ j : Instr, op &&& (tableRow j).1 = (tableRow j).2 →
      tableRow j = tableRow i ∨ ((∃ nnn, j = .sys nnn) ∧ (i = .cls ∨ i = .ret))

/-- Words written out from the spec's encodings, one of each family (30_encoding.md R95, 95_test_vectors.md 2.1). -/
def Obligations.WordsOfEachFamilyDecode : Prop :=
  decode 0x00EE#16 = .ok .ret ∧ decode 0x0123#16 = .ok (.sys 0x123#12) ∧
  decode 0x2204#16 = .ok (.call 0x204#12) ∧ decode 0x3A7F#16 = .ok (.seImm 10#4 0x7F#8) ∧
  decode 0x8AB4#16 = .ok (.addReg 10#4 11#4) ∧ decode 0xC30F#16 = .ok (.rnd 3#4 0x0F#8) ∧
  decode 0xA2F0#16 = .ok (.ldI 0x2F0#12) ∧ decode 0xF755#16 = .ok (.storeRegs 7#4) ∧
  decode 0xD125#16 = .ok (.drw 1#4 2#4 5#4) ∧ decode 0xE1A1#16 = .ok (.sknp 1#4) ∧
  decode 0xF10A#16 = .ok (.ldVxK 1#4) ∧ decode 0xF318#16 = .ok (.ldSTVx 3#4)

/-! ## Memory and fetch -/

/-- `MemRead` and `MemWrite` reduce their address modulo 4096, and a read gives the byte last written
(00_scope.md R12). -/
def Obligations.ReadAfterWriteModuloMemorySize : Prop :=
  ∀ (s : State) (a p : Nat) (b : Byte),
    (s.writeByte a b).readByte p = (if p % 4096 = a % 4096 then b else s.readByte p) ∧
    s.readByte p = s.readByte (p % 4096) ∧
    { s.writeByte a b with mem := s.mem } = s

/-- Two memories in canonical form that read the same at every address are the same data: the model's form of
20_memory.md R60 (4096 cells and nothing else). -/
def Obligations.CanonicalMemoriesThatReadAlikeAreEqual : Prop :=
  ∀ m n : Memory, m.wf → n.wf → (∀ a, a < 4096 → m.read a = n.read a) → m = n

/-- The fetch is big-endian, each byte address reduced on its own (20_memory.md R63). -/
def Obligations.FetchIsBigEndian : Prop :=
  ∀ s : State,
    s.fetch.toNat / 256 = (s.readByte (s.pc.toNat % 4096)).toNat ∧
    s.fetch.toNat % 256 = (s.readByte ((s.pc.toNat + 1) % 4096)).toNat

/-- A store over the next instruction is what the next fetch reads (20_memory.md R80; D27, log 26). -/
def Obligations.StoreIsSeenByTheNextFetch : Prop :=
  ∀ (x : Reg) (s : State), 1 ≤ x.toNat → s.i.toNat % 4096 = (s.pc.toNat + 2) % 4096 →
    ∃ t, exec (.storeRegs x) s = .next t ∧ t.fetch = combine (s.reg 0) (s.reg 1)

/-! ## The cycle, the tick, the host -/

/-- A step runs the instruction the two bytes at `pc` decode to, and what the step adds: the count of cycles and, after
every `CYCLES_PER_TICK`-th, one down-count of both timers; nothing after a raise (48_cycle_tick_host.md R221, R222,
R224; the model's step is log 1). -/
def Obligations.StepRunsTheDecodedInstruction : Prop :=
  ∀ (s t : State) (i : Instr), s.fault = none →
    decodeBytes [s.readByte s.pc.toNat, s.readByte (s.pc.toNat + 1)] = .ok (i, []) →
    exec i s = .next t →
    (t.fault ≠ none → step s = .next t) ∧
    (t.fault = none → step s = .next { t with
      cycles := t.cycles + 1
      dt := if (t.cycles + 1) % Config.cyclesPerTick = 0 ∧ t.dt ≠ 0 then t.dt - 1 else t.dt
      st := if (t.cycles + 1) % Config.cyclesPerTick = 0 ∧ t.st ≠ 0 then t.st - 1 else t.st })

/-- A word of no row raises `UnknownOpcode` with the full opcode and writes nothing else (48_cycle_tick_host.md R221,
60_exceptions.md R251; what a raise leaves is D22, log 8). -/
def Obligations.UnknownWordRaisesUnknownOpcode : Prop :=
  ∀ (s : State) (r : Reject), s.fault = none → decode s.fetch = .error r →
    step s = .next { s with fault := some (.unknownOpcode s.fetch) }

/-- A stopped machine: a `TICK` changes nothing and responds the same fault (48_cycle_tick_host.md R223; D22). That
`step`, which is one cycle, has no next state there is the model's choice (log 8). -/
def Obligations.StoppedMachineRunsNothing : Prop :=
  ∀ (s : State) (f : Fault), s.fault = some f →
    step s = .fault f ∧ ∀ perTick, s.transactWith perTick .tick = .next (s, .fault f)

/-- A `TICK` ends with one down-count of each timer that is above 0, unless a cycle raised: then it ends as that cycle
left it (48_cycle_tick_host.md R222, R224, R225; the faulting tick is D22, log 8). -/
def Obligations.TickCountsTimersOnceUnlessFaulted : Prop :=
  ∀ (perTick : Nat) (s : State), s.fault = none →
    ∃ u t, s.batch perTick = .next u ∧ s.tickWith perTick = .next t ∧
      (u.fault ≠ none → t = u) ∧
      (u.fault = none → { t with dt := u.dt, st := u.st } = u ∧
        t.dt.toNat = u.dt.toNat - 1 ∧ t.st.toNat = u.st.toNat - 1)

/-- The instruction-by-instruction machine and the transaction agree: from a tick boundary, `TICK` is the steps of its
cycles, all `CYCLES_PER_TICK` of them or as many as it took to raise (48_cycle_tick_host.md R222; the model's step
is log 1). -/
def Obligations.TickIsItsSteps : Prop :=
  ∀ s t : State, s.fault = none → s.betweenTicks Config.cyclesPerTick = true →
    s.tickWith Config.cyclesPerTick = .next t →
    ∃ k, 1 ≤ k ∧ k ≤ Config.cyclesPerTick ∧ Sys2Proof.core.run k s = .next t ∧
      (k < Config.cyclesPerTick → t.fault ≠ none)

/-- A machine at a jump to itself: every `TICK` leaves everything as it was but the timers, each down by one with
floor 0 (48_cycle_tick_host.md R237 (c), derived; the count of cycles is the model's own field, log 4). -/
def Obligations.SpinningMachineOnlyCountsTimers : Prop :=
  ∀ (perTick : Nat) (s : State), s.fault = none → s.isSpinning = true →
    ∃ t, s.tickWith perTick = .next t ∧
      { t with dt := s.dt, st := s.st, cycles := s.cycles } = s ∧
      t.dt.toNat = s.dt.toNat - 1 ∧ t.st.toNat = s.st.toNat - 1

/-- A machine that waits for a key and has no press latched stays so through every `TICK`, its timers counting
(44_input.md R203, 60_exceptions.md R275; D16, log 21). -/
def Obligations.WaitingMachineKeepsWaiting : Prop :=
  ∀ (perTick : Nat) (s : State), s.Inv → s.waitKey = true → s.latchValid = false →
    ∃ t, s.tickWith perTick = .next t ∧
      { t with dt := s.dt, st := s.st, cycles := s.cycles } = s ∧
      t.dt.toNat = s.dt.toNat - 1 ∧ t.st.toNat = s.st.toNat - 1

/-- A `LOAD` that fits resets everything, whatever the state before, and installs font, ROM and zeros
(48_cycle_tick_host.md R226, 10_state.md R50, R51, 20_memory.md R71; stack cells D18, zero bytes D20, key-wait unit
D16, font D14: logs 9, 6, 21, 5). -/
def Obligations.LoadResetsEverything : Prop :=
  ∀ (perTick : Nat) (s : State) (rom : List Byte), rom.length ≤ 3584 →
    ∃ t, s.transactWith perTick (.load rom) = .next (t, .ok) ∧
      (∀ r, t.reg r = 0) ∧ t.i = 0 ∧ t.pc = 0x200 ∧ t.sp.val = 0 ∧
      (∀ (j : Nat) (h : j < 16), t.stack[j] = 0) ∧ t.dt = 0 ∧ t.st = 0 ∧
      (∀ k, t.key k = false) ∧ (∀ y x, t.fb.pixel y x = false) ∧
      t.waitKey = false ∧ t.latchValid = false ∧ t.latchKey = 0 ∧ t.fault = none ∧
      ∀ a, a < 4096 → t.readByte a =
        if a < 80 then fontByte a
        else if 512 ≤ a then rom.getD (a - 512) 0 else 0

/-- A `LOAD` that does not fit changes nothing and responds `RomTooLarge` (48_cycle_tick_host.md R227). -/
def Obligations.LoadTooLongChangesNothing : Prop :=
  ∀ (perTick : Nat) (s : State) (rom : List Byte), 3584 < rom.length →
    s.transactWith perTick (.load rom) = .next (s, .romTooLarge)

/-- `KEY_DOWN` of a key 0 to 15: held afterwards; latched if it was not held, a wait is armed and nothing is latched;
nothing else changes (48_cycle_tick_host.md R230; the latch is D16, log 21). -/
def Obligations.KeyDownHoldsAndLatches : Prop :=
  ∀ (perTick : Nat) (s : State) (k : Nibble),
    ∃ t, s.transactWith perTick (.keyDown k.toNat) = .next (t, .nothing) ∧
      t.key k = true ∧ (∀ q, q ≠ k → t.key q = s.key q) ∧
      (if s.key k = false ∧ s.waitKey = true ∧ s.latchValid = false then
        t.latchValid = true ∧ t.latchKey = k
      else t.latchValid = s.latchValid ∧ t.latchKey = s.latchKey) ∧
      { t with keys := s.keys, latchValid := s.latchValid, latchKey := s.latchKey } = s

/-- `KEY_UP` of a key 0 to 15: not held afterwards, nothing else changes, a latched press included
(48_cycle_tick_host.md R231). -/
def Obligations.KeyUpReleasesAndNothingElse : Prop :=
  ∀ (perTick : Nat) (s : State) (k : Nibble),
    ∃ t, s.transactWith perTick (.keyUp k.toNat) = .next (t, .nothing) ∧
      t.key k = false ∧ (∀ q, q ≠ k → t.key q = s.key q) ∧
      { t with keys := s.keys } = s ∧ (s.key k = false → t = s)

/-- Key codes outside 0 to 15 change nothing and report nothing (48_cycle_tick_host.md R232). -/
def Obligations.KeyCodesOutOfRangeAreIgnored : Prop :=
  ∀ (perTick : Nat) (s : State) (code : Int), code < 0 ∨ 15 < code →
    s.transactWith perTick (.keyDown code) = .next (s, .nothing) ∧
    s.transactWith perTick (.keyUp code) = .next (s, .nothing)

/-- The two observations change nothing: `SOUND_ACTIVE` answers `ST > 0`, `FB_SNAPSHOT` gives the 2048 bits
(48_cycle_tick_host.md R233, R234; how the grid is indexed is D29, log 30). -/
def Obligations.ObservationsChangeNothing : Prop :=
  ∀ (perTick : Nat) (s : State),
    (∃ b, s.transactWith perTick .soundActive = .next (s, .sound b) ∧ (b = true ↔ 0 < s.st.toNat)) ∧
    (∃ g, s.transactWith perTick .fbSnapshot = .next (s, .grid g) ∧
      ∀ (y x : Nat) (hy : y < 32) (hx : x < 64), g[y][x] = s.fb.pixel y x)

/-! ## Arithmetic and logic -/

/-- `6XNN` and `8XY0`: the register gets the immediate or the other register, nothing else changes but `pc`
(40_arithmetic_logic.md R120, R122). -/
def Obligations.LoadsIntoRegister : Prop :=
  ∀ (x y : Reg) (nn : Byte) (s : State),
    (∃ t, exec (.ldImm x nn) s = .next t ∧ t.reg x = nn ∧ (∀ r, r ≠ x → t.reg r = s.reg r) ∧
      t.pc = s.pc + 2 ∧ s.SameButRegsPc t) ∧
    (∃ t, exec (.ldReg x y) s = .next t ∧ t.reg x = s.reg y ∧ (∀ r, r ≠ x → t.reg r = s.reg r) ∧
      t.pc = s.pc + 2 ∧ s.SameButRegsPc t)

/-- `7XNN`: the sum modulo 256, no flag (40_arithmetic_logic.md R121; no flag is D5, log 12). -/
def Obligations.AddImmediateWithoutFlag : Prop :=
  ∀ (x : Reg) (nn : Byte) (s : State),
    ∃ t, exec (.addImm x nn) s = .next t ∧
      (t.reg x).toNat = ((s.reg x).toNat + nn.toNat) % 256 ∧ (∀ r, r ≠ x → t.reg r = s.reg r) ∧
      t.pc = s.pc + 2 ∧ s.SameButRegsPc t

/-- `8XY1`, `8XY2`, `8XY3`: bit by bit, no flag (40_arithmetic_logic.md R123 to R125; no flag is D9, log 16). -/
def Obligations.LogicOperationsWithoutFlag : Prop :=
  ∀ (x y : Reg) (s : State),
    (∃ t, exec (.orReg x y) s = .next t ∧
      (∀ j, j < 8 → (t.reg x).getLsbD j = ((s.reg x).getLsbD j || (s.reg y).getLsbD j)) ∧
      (∀ r, r ≠ x → t.reg r = s.reg r) ∧ t.pc = s.pc + 2 ∧ s.SameButRegsPc t) ∧
    (∃ t, exec (.andReg x y) s = .next t ∧
      (∀ j, j < 8 → (t.reg x).getLsbD j = ((s.reg x).getLsbD j && (s.reg y).getLsbD j)) ∧
      (∀ r, r ≠ x → t.reg r = s.reg r) ∧ t.pc = s.pc + 2 ∧ s.SameButRegsPc t) ∧
    (∃ t, exec (.xorReg x y) s = .next t ∧
      (∀ j, j < 8 → (t.reg x).getLsbD j = ((s.reg x).getLsbD j ^^ (s.reg y).getLsbD j)) ∧
      (∀ r, r ≠ x → t.reg r = s.reg r) ∧ t.pc = s.pc + 2 ∧ s.SameButRegsPc t)

/-- `8XY4`: the sum modulo 256, `VF` the carry, written last (40_arithmetic_logic.md R126, R141; the order is D6,
log 13; which add carries is D5, log 12). -/
def Obligations.AddRegistersWithCarry : Prop :=
  ∀ (x y : Reg) (s : State),
    ∃ t, exec (.addReg x y) s = .next t ∧
      (x ≠ 15 → (t.reg x).toNat = ((s.reg x).toNat + (s.reg y).toNat) % 256) ∧
      t.reg 15 = (if 255 < (s.reg x).toNat + (s.reg y).toNat then 1 else 0) ∧
      (∀ r, r ≠ x → r ≠ 15 → t.reg r = s.reg r) ∧ t.pc = s.pc + 2 ∧ s.SameButRegsPc t

/-- `8XY5` and `8XY7`: the difference modulo 256, `VF` not-borrow, written last (40_arithmetic_logic.md R127, R129,
R141; equality is D7, log 14; the order is D6, log 13). -/
def Obligations.SubtractionsWithNotBorrow : Prop :=
  ∀ (x y : Reg) (s : State),
    (∃ t, exec (.subReg x y) s = .next t ∧
      (x ≠ 15 → (t.reg x).toNat = ((s.reg x).toNat + 256 - (s.reg y).toNat) % 256) ∧
      t.reg 15 = (if (s.reg y).toNat ≤ (s.reg x).toNat then 1 else 0) ∧
      (∀ r, r ≠ x → r ≠ 15 → t.reg r = s.reg r) ∧ t.pc = s.pc + 2 ∧ s.SameButRegsPc t) ∧
    (∃ t, exec (.subn x y) s = .next t ∧
      (x ≠ 15 → (t.reg x).toNat = ((s.reg y).toNat + 256 - (s.reg x).toNat) % 256) ∧
      t.reg 15 = (if (s.reg x).toNat ≤ (s.reg y).toNat then 1 else 0) ∧
      (∀ r, r ≠ x → r ≠ 15 → t.reg r = s.reg r) ∧ t.pc = s.pc + 2 ∧ s.SameButRegsPc t)

/-- `8XY6` and `8XYE`: `V[x]` halved or doubled in place whatever `y` is, `VF` the bit shifted out, written last
(40_arithmetic_logic.md R128, R130, R141; in place is D8, log 15; the order is D6, log 13). -/
def Obligations.ShiftsInPlace : Prop :=
  ∀ (x y : Reg) (s : State),
    (∃ t, exec (.shr x y) s = .next t ∧
      (x ≠ 15 → (t.reg x).toNat = (s.reg x).toNat / 2) ∧
      t.reg 15 = (if (s.reg x).toNat % 2 = 1 then 1 else 0) ∧
      (∀ r, r ≠ x → r ≠ 15 → t.reg r = s.reg r) ∧ t.pc = s.pc + 2 ∧ s.SameButRegsPc t) ∧
    (∃ t, exec (.shl x y) s = .next t ∧
      (x ≠ 15 → (t.reg x).toNat = 2 * (s.reg x).toNat % 256) ∧
      t.reg 15 = (if 128 ≤ (s.reg x).toNat then 1 else 0) ∧
      (∀ r, r ≠ x → r ≠ 15 → t.reg r = s.reg r) ∧ t.pc = s.pc + 2 ∧ s.SameButRegsPc t)

/-- `CXNN`: a fresh free byte under the mask, so the result has no bit outside it, and the next draw is another
(40_arithmetic_logic.md R131; the draw is D11, log 3). Nothing is said of the byte's value. -/
def Obligations.RandomByteUnderTheMask : Prop :=
  ∀ (x : Reg) (nn : Byte) (s : State),
    ∃ t, exec (.rnd x nn) s = .next t ∧ t.reg x = (Config.rndByte s.draws &&& nn) ∧
      (t.reg x &&& ~~~nn) = 0 ∧ (∀ r, r ≠ x → t.reg r = s.reg r) ∧ t.pc = s.pc + 2 ∧
      t.draws = s.draws + 1 ∧ { t with v := s.v, pc := s.pc, draws := s.draws } = s ∧ s.SameBytes t

/-! ## Control flow -/

/-- `0NNN`: takes the fault `UnknownOpcode` with the full opcode 0x0nnn; nothing else changes (41_control_flow.md R150;
D3, log 11). -/
def Obligations.SysRaisesUnknownOpcode : Prop :=
  ∀ (nnn : Addr12) (s : State), ∃ t code, exec (.sys nnn) s = .next t ∧
    t.fault = some (.unknownOpcode code) ∧ code.toNat = nnn.toNat ∧
    { t with fault := s.fault } = s ∧ s.SameBytes t

/-- `1NNN`: any target, `pc` alone changes, and a jump to itself changes no state (41_control_flow.md R152). -/
def Obligations.JumpSetsPcOnly : Prop :=
  ∀ (nnn : Addr12) (s : State), ∃ t, exec (.jp nnn) s = .next t ∧
    t.pc.toNat = nnn.toNat ∧ s.SameButPc t ∧ (s.pc.toNat = nnn.toNat → t = s)

/-- `BNNN`: `nnn + V[0]`, at most 0x10FE and not reduced (41_control_flow.md R158; the register is D10, log 17). -/
def Obligations.JumpV0AddsRegisterZero : Prop :=
  ∀ (nnn : Addr12) (s : State), ∃ t, exec (.jpV0 nnn) s = .next t ∧
    t.pc.toNat = nnn.toNat + (s.reg 0).toNat ∧ s.SameButPc t

/-- `2NNN` with room: `pc + 2` on the stack, depth one more, jump (41_control_flow.md R153; what is saved is D18,
log 9). -/
def Obligations.CallPushesAndJumps : Prop :=
  ∀ (nnn : Addr12) (s : State) (h : s.sp.val < 16), ∃ t, exec (.call nnn) s = .next t ∧
    t.stack[s.sp.val] = s.pc + 2 ∧
    (∀ (j : Nat) (hj : j < 16), j ≠ s.sp.val → t.stack[j] = s.stack[j]) ∧
    t.sp.val = s.sp.val + 1 ∧ t.pc.toNat = nnn.toNat ∧
    { t with stack := s.stack, sp := s.sp, pc := s.pc } = s ∧ s.SameBytes t

/-- `2NNN` with 16 entries: `StackOverflow`, nothing else changes; with fewer, no fault and one entry more, so the
seventeenth nested call is the first that faults (60_exceptions.md R252, 41_control_flow.md R153). That a raise changes
nothing but the fault register is D22 (60_exceptions.md R254; log 8). -/
def Obligations.SeventeenthCallOverflows : Prop :=
  ∀ (nnn : Addr12) (s : State), s.fault = none → ∃ t, exec (.call nnn) s = .next t ∧
    (s.sp.val = 16 → t = { s with fault := some .stackOverflow }) ∧
    (s.sp.val < 16 → t.fault = none ∧ t.sp.val = s.sp.val + 1)

/-- `00EE`: pops into `pc`, the cell keeping its value; on an empty stack `StackUnderflow` and nothing else
(41_control_flow.md R151, 60_exceptions.md R253). That the cell keeps its value is D18 (log 9), that a raise changes
nothing but the fault register D22 (60_exceptions.md R254; log 8). -/
def Obligations.ReturnPopsOrUnderflows : Prop :=
  ∀ s : State, ∃ t, exec .ret s = .next t ∧
    (s.sp.val = 0 → t = { s with fault := some .stackUnderflow }) ∧
    (∀ h : 0 < s.sp.val,
      t.sp.val = s.sp.val - 1 ∧
      t.pc = s.stack[s.sp.val - 1]'(by have := s.sp.isLt; simp at this; omega) ∧
      { t with sp := s.sp, pc := s.pc } = s ∧ s.SameBytes t)

/-- Call then return: with the entry untouched and the depth back, `RET` restores `pc` to the instruction after the
`CALL` and the depth before it (41_control_flow.md R162, derived). -/
def Obligations.ReturnAfterCallRestores : Prop :=
  ∀ (nnn : Addr12) (s : State) (h : s.sp.val < 16), ∃ t, exec (.call nnn) s = .next t ∧
    ∀ u : State, u.sp = t.sp → u.stack[s.sp.val] = t.stack[s.sp.val] →
      ∃ w, exec .ret u = .next w ∧ w.pc = s.pc + 2 ∧ w.sp = s.sp

/-- The four register skips: 4 when the condition holds, else 2; nothing else changes (41_control_flow.md R154 to
R157). -/
def Obligations.RegisterSkips : Prop :=
  ∀ (x y : Reg) (nn : Byte) (s : State),
    (∃ t, exec (.seImm x nn) s = .next t ∧
      t.pc = (if s.reg x = nn then s.pc + 4 else s.pc + 2) ∧ s.SameButPc t) ∧
    (∃ t, exec (.sneImm x nn) s = .next t ∧
      t.pc = (if s.reg x ≠ nn then s.pc + 4 else s.pc + 2) ∧ s.SameButPc t) ∧
    (∃ t, exec (.seReg x y) s = .next t ∧
      t.pc = (if s.reg x = s.reg y then s.pc + 4 else s.pc + 2) ∧ s.SameButPc t) ∧
    (∃ t, exec (.sneReg x y) s = .next t ∧
      t.pc = (if s.reg x ≠ s.reg y then s.pc + 4 else s.pc + 2) ∧ s.SameButPc t)

/-! ## Index register and memory -/

/-- `ANNN`: `I` is `nnn`, its high bits 0 (42_memory_index.md R170). -/
def Obligations.LoadIndex : Prop :=
  ∀ (nnn : Addr12) (s : State), ∃ t, exec (.ldI nnn) s = .next t ∧
    t.i.toNat = nnn.toNat ∧ t.pc = s.pc + 2 ∧
    { t with i := s.i, pc := s.pc } = s ∧ s.SameBytes t

/-- `FX1E` adds modulo 65536 without a flag; `FX29` gives the glyph address of the low nibble (42_memory_index.md R171,
R172; no flag is D12, log 18; the nibble is D13, log 19; `FONT_BASE` = 0 is D14, log 5). -/
def Obligations.IndexAddAndGlyph : Prop :=
  ∀ (x : Reg) (s : State),
    (∃ t, exec (.addI x) s = .next t ∧ t.i.toNat = (s.i.toNat + (s.reg x).toNat) % 65536 ∧
      t.pc = s.pc + 2 ∧ { t with i := s.i, pc := s.pc } = s ∧ s.SameBytes t) ∧
    (∃ t, exec (.ldF x) s = .next t ∧ t.i.toNat = 5 * ((s.reg x).toNat % 16) ∧
      t.pc = s.pc + 2 ∧ { t with i := s.i, pc := s.pc } = s ∧ s.SameBytes t)

/-- `FX33`: hundreds, tens, ones at `I`, `I + 1`, `I + 2`, each address wrapped; every other byte and all else
unchanged (42_memory_index.md R173; the addresses are D15, log 20). -/
def Obligations.DecimalDigitsInMemory : Prop :=
  ∀ (x : Reg) (s : State), ∃ t, exec (.ldB x) s = .next t ∧
    (t.readByte (s.dataAddr 0)).toNat = (s.reg x).toNat / 100 ∧
    (t.readByte (s.dataAddr 1)).toNat = (s.reg x).toNat / 10 % 10 ∧
    (t.readByte (s.dataAddr 2)).toNat = (s.reg x).toNat % 10 ∧
    (∀ a, (∀ k, k < 3 → a % 4096 ≠ s.dataAddr k % 4096) → t.readByte a = s.readByte a) ∧
    t.pc = s.pc + 2 ∧ s.SameButMemPc t

/-- The round trip: after `FX33` the three bytes are digits with the register as their decimal value, and `FX65` with
`x = 2` at the same `I` brings them into `V[0]`, `V[1]`, `V[2]` (42_memory_index.md R181, derived; D15, log 20). -/
def Obligations.DecimalRoundTrip : Prop :=
  ∀ (x : Reg) (s : State), ∃ t u, exec (.ldB x) s = .next t ∧ exec (.loadRegs 2) t = .next u ∧
    (u.reg 0).toNat ≤ 2 ∧ (u.reg 1).toNat ≤ 9 ∧ (u.reg 2).toNat ≤ 9 ∧
    100 * (u.reg 0).toNat + 10 * (u.reg 1).toNat + (u.reg 2).toNat = (s.reg x).toNat ∧ u.i = s.i

/-- `FX55`: `V[0]` to `V[x]` at `I` upward, each address wrapped; every other byte and all else unchanged
(42_memory_index.md R174; range and unchanged `I` are D15, log 20). -/
def Obligations.RegistersStoredInMemory : Prop :=
  ∀ (x : Reg) (s : State), ∃ t, exec (.storeRegs x) s = .next t ∧
    (∀ r : Reg, r.toNat ≤ x.toNat → t.readByte (s.dataAddr r.toNat) = s.reg r) ∧
    (∀ a, (∀ k, k ≤ x.toNat → a % 4096 ≠ s.dataAddr k % 4096) → t.readByte a = s.readByte a) ∧
    t.pc = s.pc + 2 ∧ s.SameButMemPc t

/-- `FX65`: `V[0]` to `V[x]` from `I` upward, each address wrapped; the other registers and all else unchanged
(42_memory_index.md R175; range and unchanged `I` are D15, log 20). -/
def Obligations.RegistersLoadedFromMemory : Prop :=
  ∀ (x : Reg) (s : State), ∃ t, exec (.loadRegs x) s = .next t ∧
    (∀ r : Reg, r.toNat ≤ x.toNat → t.reg r = s.readByte (s.dataAddr r.toNat)) ∧
    (∀ r : Reg, x.toNat < r.toNat → t.reg r = s.reg r) ∧
    t.pc = s.pc + 2 ∧ s.SameButRegsPc t

/-! ## Graphics -/

/-- `00E0`: every pixel off, no flag (43_graphics.md R190; D26, log 25). -/
def Obligations.ClearTurnsEveryPixelOff : Prop :=
  ∀ s : State, ∃ t, exec .cls s = .next t ∧
    (∀ (y x : Nat) (hy : y < 32) (hx : x < 64), t.fb[y][x] = false) ∧ t.pc = s.pc + 2 ∧
    { t with fb := s.fb, pc := s.pc } = s ∧ s.SameBytes t

/-- `DXYN`: every pixel is XORed with the sprite pixel over it, positions wrapping around both edges; `VF` is 1 if some
pixel went from on to off, else 0, on every draw (43_graphics.md R191, R192; bit order, row direction and `n = 0` are
D17, log 22). -/
def Obligations.DrawXorsTheSprite : Prop :=
  ∀ (x y : Reg) (n : Nibble) (s : State), ∃ t, exec (.drw x y n) s = .next t ∧
    (∀ py px, py < 32 → px < 64 → t.fb.pixel py px = (s.fb.pixel py px ^^
      s.spriteOver ((s.reg y).toNat % 32) ((s.reg x).toNat % 64) n.toNat py px)) ∧
    (t.reg 15 = 0 ∨ t.reg 15 = 1) ∧
    (t.reg 15 = 1 ↔ ∃ py px, py < 32 ∧ px < 64 ∧ s.fb.pixel py px = true ∧ t.fb.pixel py px = false) ∧
    (∀ r, r ≠ 15 → t.reg r = s.reg r) ∧ t.pc = s.pc + 2 ∧
    { t with v := s.v, pc := s.pc, fb := s.fb } = s ∧ s.SameBytes t

/-- Drawing the same sprite twice at the same place restores the framebuffer; the second draw collides exactly if the
first left on a pixel under the sprite (43_graphics.md R192, derived; D17, log 22). -/
def Obligations.DrawingTwiceRestoresTheFramebuffer : Prop :=
  ∀ (x y : Reg) (n : Nibble) (s : State), x ≠ 15 → y ≠ 15 →
    ∃ t u, exec (.drw x y n) s = .next t ∧ exec (.drw x y n) t = .next u ∧ u.fb = s.fb ∧
      (u.reg 15 = 1 ↔ ∃ py px, py < 32 ∧ px < 64 ∧
        s.spriteOver ((s.reg y).toNat % 32) ((s.reg x).toNat % 64) n.toNat py px = true ∧
        t.fb.pixel py px = true)

/-- The worked example: an all-on row at column 60 of row 0 on a clear framebuffer turns on columns 60 to 63 and 0 to
3 without collision; drawn again it turns all off with collision (43_graphics.md R194, 90_conflicts.md C3). -/
def Obligations.WorkedExampleOfTheWrap : Prop :=
  ∀ (x y : Reg) (s : State), x ≠ 15 → y ≠ 15 → s.reg x = 60 → s.reg y = 0 →
    s.readByte s.i.toNat = 0xFF → (∀ py px, s.fb.pixel py px = false) →
    ∃ t u, exec (.drw x y 1) s = .next t ∧ exec (.drw x y 1) t = .next u ∧
      (∀ py px, py < 32 → px < 64 →
        (t.fb.pixel py px = true ↔ py = 0 ∧ (60 ≤ px ∨ px ≤ 3))) ∧ t.reg 15 = 0 ∧
      (∀ py px, u.fb.pixel py px = false) ∧ u.reg 15 = 1

/-! ## Input and timers -/

/-- `EX9E` and `EXA1`: skip on the level of the key named by the low nibble of `V[x]` (44_input.md R200 to R202; the
nibble is D13, log 19). -/
def Obligations.KeySkips : Prop :=
  ∀ (x : Reg) (s : State) (k : Nibble), k.toNat = (s.reg x).toNat % 16 →
    (∃ t, exec (.skp x) s = .next t ∧
      t.pc = (if s.key k = true then s.pc + 4 else s.pc + 2) ∧ s.SameButPc t) ∧
    (∃ t, exec (.sknp x) s = .next t ∧
      t.pc = (if s.key k = false then s.pc + 4 else s.pc + 2) ∧ s.SameButPc t)

/-- `FX0A`: the first execution arms the wait; while nothing is latched it changes nothing; then it loads the latched
key's index, ends the wait and goes on (44_input.md R203; D16, log 21). -/
def Obligations.KeyWaitArmsWaitsCompletes : Prop :=
  ∀ (x : Reg) (s : State), ∃ t, exec (.ldVxK x) s = .next t ∧ s.SameBytes t ∧
    (s.waitKey = false →
      t.waitKey = true ∧ t.latchValid = false ∧ t.latchKey = 0 ∧
      { t with waitKey := s.waitKey, latchValid := s.latchValid, latchKey := s.latchKey } = s) ∧
    (s.waitKey = true → s.latchValid = false → t = s) ∧
    (s.waitKey = true → s.latchValid = true →
      (t.reg x).toNat = s.latchKey.toNat ∧ (∀ r, r ≠ x → t.reg r = s.reg r) ∧ t.pc = s.pc + 2 ∧
      t.waitKey = false ∧ t.latchValid = false ∧ t.latchKey = 0 ∧
      { t with v := s.v, pc := s.pc, waitKey := s.waitKey, latchValid := s.latchValid,
               latchKey := s.latchKey } = s)

/-- The whole wait: armed, a press of a key that was not held, perhaps its release, then the key's index is in `V[x]` and
`pc` has moved on (44_input.md R203, 48_cycle_tick_host.md R230, R231; edge and latch are D16, log 21). -/
def Obligations.FreshPressEndsTheWait : Prop :=
  ∀ (x : Reg) (k : Nibble) (s : State), s.waitKey = false → s.key k = false →
    ∃ t w w', exec (.ldVxK x) s = .next t ∧ t.pc = s.pc ∧
      exec (.ldVxK x) (t.keyDown k.toNat) = .next w ∧
      exec (.ldVxK x) ((t.keyDown k.toNat).keyUp k.toNat) = .next w' ∧
      (w.reg x).toNat = k.toNat ∧ w.pc = s.pc + 2 ∧ w.waitKey = false ∧
      (w'.reg x).toNat = k.toNat ∧ w'.pc = s.pc + 2 ∧ w'.waitKey = false

/-- `FX07`, `FX15`, `FX18`: `DT` read, `DT` written, `ST` written, and nothing else but `pc` (45_timers.md R210, R211,
R212; 10_state.md R32). -/
def Obligations.TimerTransfers : Prop :=
  ∀ (x : Reg) (s : State),
    (∃ t, exec (.ldVxDT x) s = .next t ∧ t.reg x = s.dt ∧ (∀ r, r ≠ x → t.reg r = s.reg r) ∧
      t.pc = s.pc + 2 ∧ s.SameButRegsPc t) ∧
    (∃ t, exec (.ldDTVx x) s = .next t ∧ t.dt = s.reg x ∧ t.pc = s.pc + 2 ∧
      { t with dt := s.dt, pc := s.pc } = s ∧ s.SameBytes t) ∧
    (∃ t, exec (.ldSTVx x) s = .next t ∧ t.st = s.reg x ∧ t.pc = s.pc + 2 ∧
      { t with st := s.st, pc := s.pc } = s ∧ s.SameBytes t)

/-! ## Whole-machine rules -/

/-- Every instruction answers a next state in every state, whatever the closed list of what does not fault names
(60_exceptions.md R256). Only `0NNN`, a `CALL` on a full stack and a `RET` on an empty one raise, each its one fault,
and a raise writes nothing but the fault register (R254, R257, derived; D3, D22, logs 11, 8). -/
def Obligations.EveryInstructionAnswersAndOnlyThreeRaise : Prop :=
  ∀ (i : Instr) (s : State), s.fault = none → ∃ t, exec i s = .next t ∧
    (t.fault ≠ none ↔
      (∃ nnn, i = .sys nnn) ∨ ((∃ nnn, i = .call nnn) ∧ s.sp.val = 16) ∨ (i = .ret ∧ s.sp.val = 0)) ∧
    (t.fault ≠ none → { t with fault := none } = s ∧
      ((∃ nnn, i = .sys nnn ∧ t.fault = some (.unknownOpcode (encode i))) ∨
       (∃ nnn, i = .call nnn ∧ t.fault = some .stackOverflow) ∨
       (i = .ret ∧ t.fault = some .stackUnderflow)))

/-- The update of `pc`, all cases of the table of 10_state.md R27, each skip under its own condition
(41_control_flow.md R154 to R157, R161; 44_input.md R201, R202). Widths and wrap are D19 (log 23), the low nibble that
names a key D13 (log 19), the register of `BNNN` D10 (log 17), the key wait D16 (log 21), that a raise leaves `pc` D22
(log 8). -/
def Obligations.ProgramCounterUpdates : Prop :=
  ∀ (i : Instr) (s t : State), s.fault = none → exec i s = .next t →
    (t.fault ≠ none ∧ t.pc = s.pc) ∨
    (t.fault = none ∧
      match i with
      | .jp nnn | .call nnn => t.pc.toNat = nnn.toNat
      | .jpV0 nnn => t.pc.toNat = nnn.toNat + (s.reg 0).toNat
      | .ret => t.pc = s.stackTop
      | .seImm x nn => t.pc = (if s.reg x = nn then s.pc + 4 else s.pc + 2)
      | .sneImm x nn => t.pc = (if s.reg x ≠ nn then s.pc + 4 else s.pc + 2)
      | .seReg x y => t.pc = (if s.reg x = s.reg y then s.pc + 4 else s.pc + 2)
      | .sneReg x y => t.pc = (if s.reg x ≠ s.reg y then s.pc + 4 else s.pc + 2)
      | .skp x => t.pc = (if s.key (BitVec.ofNat 4 (s.reg x).toNat) = true then s.pc + 4 else s.pc + 2)
      | .sknp x => t.pc = (if s.key (BitVec.ofNat 4 (s.reg x).toNat) = false then s.pc + 4 else s.pc + 2)
      | .ldVxK _ => t.pc = (if s.waitKey = true ∧ s.latchValid = true then s.pc + 2 else s.pc)
      | _ => t.pc = s.pc + 2)

/-- Which instructions write each piece of state other than the `V` registers and `pc`: memory `FX33`, `FX55`
(20_memory.md R61); the framebuffer `DXYN`, `00E0` (10_state.md R35; D26, log 25); the stack cells `2NNN` (R29; a popped
cell keeps its value by D18, log 9), `sp` `2NNN`, `00EE` (R29); the timers `FX15`, `FX18` (R32); `I` `ANNN`, `FX1E`,
`FX29` (R24; not `FX33`, `FX55`, `FX65` by D15, log 20, nor `DXYN` by D17, log 22); the key-wait unit `FX0A` (R33; D16,
log 21); the fault register `0NNN`, `2NNN`, `00EE` (R34; D3, D22, logs 11, 8); the keypad none (R33). Of the model's own
counters, `draws` is written by `CXNN` and `cycles` by no instruction (log 4). -/
def Obligations.OnlyNamedInstructionsWriteEachState : Prop :=
  ∀ (i : Instr) (s t : State), exec i s = .next t →
    (t.mem ≠ s.mem → ∃ x, i = .ldB x ∨ i = .storeRegs x) ∧
    (t.fb ≠ s.fb → i = .cls ∨ ∃ x y n, i = .drw x y n) ∧
    (t.stack ≠ s.stack → ∃ nnn, i = .call nnn) ∧
    (t.sp ≠ s.sp → i = .ret ∨ ∃ nnn, i = .call nnn) ∧
    (t.dt ≠ s.dt → ∃ x, i = .ldDTVx x) ∧
    (t.st ≠ s.st → ∃ x, i = .ldSTVx x) ∧
    (t.i ≠ s.i → (∃ nnn, i = .ldI nnn) ∨ ∃ x, i = .addI x ∨ i = .ldF x) ∧
    ((t.waitKey ≠ s.waitKey ∨ t.latchValid ≠ s.latchValid ∨ t.latchKey ≠ s.latchKey) →
      ∃ x, i = .ldVxK x) ∧
    (t.fault ≠ s.fault → i = .ret ∨ ∃ nnn, i = .sys nnn ∨ i = .call nnn) ∧
    t.keys = s.keys ∧
    (t.draws ≠ s.draws → ∃ x nn, i = .rnd x nn) ∧ t.cycles = s.cycles

/-- An instruction changes no general register but those its row of the table of 10_state.md R21 names (derived). -/
def Obligations.OnlyNamedRegistersAreWritten : Prop :=
  ∀ (i : Instr) (s t : State) (r : Reg), exec i s = .next t → t.reg r ≠ s.reg r → writesReg i r = true

/-- Stack cells at `sp` and above are unobservable: two states that differ in nothing else answer alike, step for step,
and stay so (10_state.md R29; D18, log 9). -/
def Obligations.StaleStackCellsAreUnobservable : Prop :=
  ∀ s u : State, s.SameButStaleCells u → OutcomesSameButStale (step s) (step u)
end

