-- ==== Sys2Proof/Laws/Bits.lean ====
section
/-! SUPPORT. The fields of an encoded word (spec 30_encoding.md R91, R92): each format's encoder puts each operand
where the field extraction finds it. -/

namespace Sys2Proof

/-- The high part of a concatenation. -/
theorem extract_high (m n : Nat) (a : BitVec m) (b : BitVec n) : (a ++ b).extractLsb' n m = a := by
  apply BitVec.eq_of_getLsbD_eq
  intro j hj
  simp [BitVec.getLsbD_append, hj]

/-- A field inside the low part of a concatenation is that field of the low part. -/
theorem extract_low (m n start len : Nat) (a : BitVec m) (b : BitVec n) (h : start + len ≤ n) :
    (a ++ b).extractLsb' start len = b.extractLsb' start len := by
  apply BitVec.eq_of_getLsbD_eq
  intro j hj
  simp [BitVec.getLsbD_append, hj, show start + j < n by omega]

/-- A field as wide as the value is the value. -/
theorem extract_all (n : Nat) (b : BitVec n) : b.extractLsb' 0 n = b := by
  apply BitVec.eq_of_getLsbD_eq
  intro j hj
  simp [hj]

theorem fieldG_encNNN (g : Nibble) (nnn : Addr12) : fieldG (encNNN g nnn) = g :=
  extract_high 4 12 g nnn

theorem fieldNNN_encNNN (g : Nibble) (nnn : Addr12) : fieldNNN (encNNN g nnn) = nnn :=
  (extract_low 4 12 0 12 g nnn (by omega)).trans (extract_all 12 nnn)

theorem fieldG_encXNN (g : Nibble) (x : Reg) (nn : Byte) : fieldG (encXNN g x nn) = g :=
  extract_high 4 12 g (x ++ nn)

theorem fieldX_encXNN (g : Nibble) (x : Reg) (nn : Byte) : fieldX (encXNN g x nn) = x :=
  (extract_low 4 12 8 4 g (x ++ nn) (by omega)).trans (extract_high 4 8 x nn)

theorem fieldNN_encXNN (g : Nibble) (x : Reg) (nn : Byte) : fieldNN (encXNN g x nn) = nn :=
  ((extract_low 4 12 0 8 g (x ++ nn) (by omega)).trans (extract_low 4 8 0 8 x nn (by omega))).trans
    (extract_all 8 nn)

theorem fieldG_encXYN (g : Nibble) (x y : Reg) (n : Nibble) : fieldG (encXYN g x y n) = g :=
  extract_high 4 12 g (x ++ (y ++ n))

theorem fieldX_encXYN (g : Nibble) (x y : Reg) (n : Nibble) : fieldX (encXYN g x y n) = x :=
  (extract_low 4 12 8 4 g (x ++ (y ++ n)) (by omega)).trans (extract_high 4 8 x (y ++ n))

theorem fieldY_encXYN (g : Nibble) (x y : Reg) (n : Nibble) : fieldY (encXYN g x y n) = y :=
  ((extract_low 4 12 4 4 g (x ++ (y ++ n)) (by omega)).trans
    (extract_low 4 8 4 4 x (y ++ n) (by omega))).trans (extract_high 4 4 y n)

theorem fieldN_encXYN (g : Nibble) (x y : Reg) (n : Nibble) : fieldN (encXYN g x y n) = n :=
  (((extract_low 4 12 0 4 g (x ++ (y ++ n)) (by omega)).trans
    (extract_low 4 8 0 4 x (y ++ n) (by omega))).trans (extract_low 4 4 0 4 y n (by omega))).trans
    (extract_all 4 n)

/-- A value is the concatenation of its two parts. -/
theorem append_parts (m n : Nat) (w : BitVec (m + n)) :
    (w.extractLsb' n m ++ w.extractLsb' 0 n : BitVec (m + n)) = w := by
  apply BitVec.eq_of_getLsbD_eq
  intro j hj
  rw [BitVec.getLsbD_append]
  by_cases h : j < n
  · simp [h]
  · simp [h, show j - n < m by omega, show n + (j - n) = j by omega]

/-- The two bytes of an opcode combine to it (R90). -/
theorem combine_bytes (op : Word) : combine (highByte op) (lowByte op) = op := append_parts 8 8 op

/-- Masking a concatenation masks its parts. -/
theorem and_parts (m n : Nat) (a c : BitVec m) (b d : BitVec n) :
    (a ++ b) &&& (c ++ d) = (a &&& c) ++ (b &&& d) := by
  apply BitVec.eq_of_getLsbD_eq
  intro j hj
  simp only [BitVec.getLsbD_and, BitVec.getLsbD_append]
  by_cases h : j < n <;> simp [h]

theorem and_ones (a : Nibble) : a &&& 0xF#4 = a := by revert a; decide
theorem and_zero (n : Nat) (a : BitVec n) : a &&& 0#n = 0#n := by simp

end Sys2Proof
end

