-- ==== Sys2Proof/Laws/State.lean ====
section
/-! SUPPORT. One lemma per field per update of the state, each true by unfolding, so that no proof unfolds a record
update again; the composite updates are rewritten to the primitive ones. -/

namespace Sys2Proof.Machine

variable (s : State)

/-! ## Composite updates are primitive updates -/

@[simp] theorem State.advance_eq : s.advance = s.setPc (s.pc + 2) := rfl
@[simp] theorem State.skip_eq : s.skip = s.setPc (s.pc + 4) := rfl
@[simp] theorem State.skipIf_eq (c : Bool) :
    s.skipIf c = s.setPc (if c then s.pc + 4 else s.pc + 2) := by cases c <;> rfl
@[simp] theorem State.setFlag_eq (f : Bool) : s.setFlag f = s.setReg Reg.vf (flagByte f) := rfl
@[simp] theorem State.result_eq (x : Reg) (b : Byte) : s.result x b = (s.setReg x b).setPc (s.pc + 2) := rfl
@[simp] theorem State.resultFlag_eq (x : Reg) (b : Byte) (f : Bool) :
    s.resultFlag x b f = ((s.setReg x b).setReg Reg.vf (flagByte f)).setPc (s.pc + 2) := rfl
@[simp] theorem State.writeAtI_eq (k : Nat) (b : Byte) :
    s.writeAtI k b = s.writeByte (s.i.toNat + k) b := rfl
@[simp] theorem State.readAtI_eq (k : Nat) : s.readAtI k = s.readByte (s.i.toNat + k) := rfl

/-! ## setPc -/

@[simp] theorem State.setPc_v (w : Word) : (s.setPc w).v = s.v := rfl
@[simp] theorem State.setPc_i (w : Word) : (s.setPc w).i = s.i := rfl
@[simp] theorem State.setPc_pc (w : Word) : (s.setPc w).pc = w := rfl
@[simp] theorem State.setPc_stack (w : Word) : (s.setPc w).stack = s.stack := rfl
@[simp] theorem State.setPc_sp (w : Word) : (s.setPc w).sp = s.sp := rfl
@[simp] theorem State.setPc_dt (w : Word) : (s.setPc w).dt = s.dt := rfl
@[simp] theorem State.setPc_st (w : Word) : (s.setPc w).st = s.st := rfl
@[simp] theorem State.setPc_keys (w : Word) : (s.setPc w).keys = s.keys := rfl
@[simp] theorem State.setPc_fb (w : Word) : (s.setPc w).fb = s.fb := rfl
@[simp] theorem State.setPc_mem (w : Word) : (s.setPc w).mem = s.mem := rfl
@[simp] theorem State.setPc_waitKey (w : Word) : (s.setPc w).waitKey = s.waitKey := rfl
@[simp] theorem State.setPc_latchValid (w : Word) : (s.setPc w).latchValid = s.latchValid := rfl
@[simp] theorem State.setPc_latchKey (w : Word) : (s.setPc w).latchKey = s.latchKey := rfl
@[simp] theorem State.setPc_fault (w : Word) : (s.setPc w).fault = s.fault := rfl
@[simp] theorem State.setPc_cycles (w : Word) : (s.setPc w).cycles = s.cycles := rfl
@[simp] theorem State.setPc_draws (w : Word) : (s.setPc w).draws = s.draws := rfl
@[simp] theorem State.setPc_reg (w : Word) (r : Reg) : (s.setPc w).reg r = s.reg r := by simp [State.reg]
@[simp] theorem State.setPc_readByte (w : Word) (p : Nat) : (s.setPc w).readByte p = s.readByte p := by simp [State.readByte]
@[simp] theorem State.setPc_key (w : Word) (q : Nibble) : (s.setPc w).key q = s.key q := by simp [State.key]

/-! ## raise -/

@[simp] theorem State.raise_v (f : Fault) : (s.raise f).v = s.v := rfl
@[simp] theorem State.raise_i (f : Fault) : (s.raise f).i = s.i := rfl
@[simp] theorem State.raise_pc (f : Fault) : (s.raise f).pc = s.pc := rfl
@[simp] theorem State.raise_stack (f : Fault) : (s.raise f).stack = s.stack := rfl
@[simp] theorem State.raise_sp (f : Fault) : (s.raise f).sp = s.sp := rfl
@[simp] theorem State.raise_dt (f : Fault) : (s.raise f).dt = s.dt := rfl
@[simp] theorem State.raise_st (f : Fault) : (s.raise f).st = s.st := rfl
@[simp] theorem State.raise_keys (f : Fault) : (s.raise f).keys = s.keys := rfl
@[simp] theorem State.raise_fb (f : Fault) : (s.raise f).fb = s.fb := rfl
@[simp] theorem State.raise_mem (f : Fault) : (s.raise f).mem = s.mem := rfl
@[simp] theorem State.raise_waitKey (f : Fault) : (s.raise f).waitKey = s.waitKey := rfl
@[simp] theorem State.raise_latchValid (f : Fault) : (s.raise f).latchValid = s.latchValid := rfl
@[simp] theorem State.raise_latchKey (f : Fault) : (s.raise f).latchKey = s.latchKey := rfl
@[simp] theorem State.raise_fault (f : Fault) : (s.raise f).fault = some f := rfl
@[simp] theorem State.raise_cycles (f : Fault) : (s.raise f).cycles = s.cycles := rfl
@[simp] theorem State.raise_draws (f : Fault) : (s.raise f).draws = s.draws := rfl
@[simp] theorem State.raise_reg (f : Fault) (r : Reg) : (s.raise f).reg r = s.reg r := by simp [State.reg]
@[simp] theorem State.raise_readByte (f : Fault) (p : Nat) : (s.raise f).readByte p = s.readByte p := by simp [State.readByte]
@[simp] theorem State.raise_key (f : Fault) (q : Nibble) : (s.raise f).key q = s.key q := by simp [State.key]

/-! ## writeByte -/

@[simp] theorem State.writeByte_v (a : Nat) (b : Byte) : (s.writeByte a b).v = s.v := rfl
@[simp] theorem State.writeByte_i (a : Nat) (b : Byte) : (s.writeByte a b).i = s.i := rfl
@[simp] theorem State.writeByte_pc (a : Nat) (b : Byte) : (s.writeByte a b).pc = s.pc := rfl
@[simp] theorem State.writeByte_stack (a : Nat) (b : Byte) : (s.writeByte a b).stack = s.stack := rfl
@[simp] theorem State.writeByte_sp (a : Nat) (b : Byte) : (s.writeByte a b).sp = s.sp := rfl
@[simp] theorem State.writeByte_dt (a : Nat) (b : Byte) : (s.writeByte a b).dt = s.dt := rfl
@[simp] theorem State.writeByte_st (a : Nat) (b : Byte) : (s.writeByte a b).st = s.st := rfl
@[simp] theorem State.writeByte_keys (a : Nat) (b : Byte) : (s.writeByte a b).keys = s.keys := rfl
@[simp] theorem State.writeByte_fb (a : Nat) (b : Byte) : (s.writeByte a b).fb = s.fb := rfl
@[simp] theorem State.writeByte_mem (a : Nat) (b : Byte) : (s.writeByte a b).mem = s.mem.write (effAddr a) b := rfl
@[simp] theorem State.writeByte_waitKey (a : Nat) (b : Byte) : (s.writeByte a b).waitKey = s.waitKey := rfl
@[simp] theorem State.writeByte_latchValid (a : Nat) (b : Byte) : (s.writeByte a b).latchValid = s.latchValid := rfl
@[simp] theorem State.writeByte_latchKey (a : Nat) (b : Byte) : (s.writeByte a b).latchKey = s.latchKey := rfl
@[simp] theorem State.writeByte_fault (a : Nat) (b : Byte) : (s.writeByte a b).fault = s.fault := rfl
@[simp] theorem State.writeByte_cycles (a : Nat) (b : Byte) : (s.writeByte a b).cycles = s.cycles := rfl
@[simp] theorem State.writeByte_draws (a : Nat) (b : Byte) : (s.writeByte a b).draws = s.draws := rfl
@[simp] theorem State.writeByte_reg (a : Nat) (b : Byte) (r : Reg) : (s.writeByte a b).reg r = s.reg r := by simp [State.reg]
@[simp] theorem State.writeByte_key (a : Nat) (b : Byte) (q : Nibble) : (s.writeByte a b).key q = s.key q := by simp [State.key]

/-! ## push -/

@[simp] theorem State.push_v (w : Word) : (s.push w).v = s.v := by unfold State.push; split <;> rfl
@[simp] theorem State.push_i (w : Word) : (s.push w).i = s.i := by unfold State.push; split <;> rfl
@[simp] theorem State.push_pc (w : Word) : (s.push w).pc = s.pc := by unfold State.push; split <;> rfl
@[simp] theorem State.push_dt (w : Word) : (s.push w).dt = s.dt := by unfold State.push; split <;> rfl
@[simp] theorem State.push_st (w : Word) : (s.push w).st = s.st := by unfold State.push; split <;> rfl
@[simp] theorem State.push_keys (w : Word) : (s.push w).keys = s.keys := by unfold State.push; split <;> rfl
@[simp] theorem State.push_fb (w : Word) : (s.push w).fb = s.fb := by unfold State.push; split <;> rfl
@[simp] theorem State.push_mem (w : Word) : (s.push w).mem = s.mem := by unfold State.push; split <;> rfl
@[simp] theorem State.push_waitKey (w : Word) : (s.push w).waitKey = s.waitKey := by unfold State.push; split <;> rfl
@[simp] theorem State.push_latchValid (w : Word) : (s.push w).latchValid = s.latchValid := by unfold State.push; split <;> rfl
@[simp] theorem State.push_latchKey (w : Word) : (s.push w).latchKey = s.latchKey := by unfold State.push; split <;> rfl
@[simp] theorem State.push_fault (w : Word) : (s.push w).fault = s.fault := by unfold State.push; split <;> rfl
@[simp] theorem State.push_cycles (w : Word) : (s.push w).cycles = s.cycles := by unfold State.push; split <;> rfl
@[simp] theorem State.push_draws (w : Word) : (s.push w).draws = s.draws := by unfold State.push; split <;> rfl
@[simp] theorem State.push_reg (w : Word) (r : Reg) : (s.push w).reg r = s.reg r := by simp [State.reg]
@[simp] theorem State.push_readByte (w : Word) (p : Nat) : (s.push w).readByte p = s.readByte p := by simp [State.readByte]
@[simp] theorem State.push_key (w : Word) (q : Nibble) : (s.push w).key q = s.key q := by simp [State.key]

/-! ## pop -/

@[simp] theorem State.pop_v : (s.pop).v = s.v := rfl
@[simp] theorem State.pop_i : (s.pop).i = s.i := rfl
@[simp] theorem State.pop_pc : (s.pop).pc = s.pc := rfl
@[simp] theorem State.pop_stack : (s.pop).stack = s.stack := rfl
@[simp] theorem State.pop_dt : (s.pop).dt = s.dt := rfl
@[simp] theorem State.pop_st : (s.pop).st = s.st := rfl
@[simp] theorem State.pop_keys : (s.pop).keys = s.keys := rfl
@[simp] theorem State.pop_fb : (s.pop).fb = s.fb := rfl
@[simp] theorem State.pop_mem : (s.pop).mem = s.mem := rfl
@[simp] theorem State.pop_waitKey : (s.pop).waitKey = s.waitKey := rfl
@[simp] theorem State.pop_latchValid : (s.pop).latchValid = s.latchValid := rfl
@[simp] theorem State.pop_latchKey : (s.pop).latchKey = s.latchKey := rfl
@[simp] theorem State.pop_fault : (s.pop).fault = s.fault := rfl
@[simp] theorem State.pop_cycles : (s.pop).cycles = s.cycles := rfl
@[simp] theorem State.pop_draws : (s.pop).draws = s.draws := rfl
@[simp] theorem State.pop_reg (r : Reg) : (s.pop).reg r = s.reg r := by simp [State.reg]
@[simp] theorem State.pop_readByte (p : Nat) : (s.pop).readByte p = s.readByte p := by simp [State.readByte]
@[simp] theorem State.pop_key (q : Nibble) : (s.pop).key q = s.key q := by simp [State.key]

/-! ## setKey -/

@[simp] theorem State.setKey_v (k : Nibble) (b : Bool) : (s.setKey k b).v = s.v := rfl
@[simp] theorem State.setKey_i (k : Nibble) (b : Bool) : (s.setKey k b).i = s.i := rfl
@[simp] theorem State.setKey_pc (k : Nibble) (b : Bool) : (s.setKey k b).pc = s.pc := rfl
@[simp] theorem State.setKey_stack (k : Nibble) (b : Bool) : (s.setKey k b).stack = s.stack := rfl
@[simp] theorem State.setKey_sp (k : Nibble) (b : Bool) : (s.setKey k b).sp = s.sp := rfl
@[simp] theorem State.setKey_dt (k : Nibble) (b : Bool) : (s.setKey k b).dt = s.dt := rfl
@[simp] theorem State.setKey_st (k : Nibble) (b : Bool) : (s.setKey k b).st = s.st := rfl
@[simp] theorem State.setKey_keys (k : Nibble) (b : Bool) : (s.setKey k b).keys = s.keys.set k.toNat b k.isLt := rfl
@[simp] theorem State.setKey_fb (k : Nibble) (b : Bool) : (s.setKey k b).fb = s.fb := rfl
@[simp] theorem State.setKey_mem (k : Nibble) (b : Bool) : (s.setKey k b).mem = s.mem := rfl
@[simp] theorem State.setKey_waitKey (k : Nibble) (b : Bool) : (s.setKey k b).waitKey = s.waitKey := rfl
@[simp] theorem State.setKey_latchValid (k : Nibble) (b : Bool) : (s.setKey k b).latchValid = s.latchValid := rfl
@[simp] theorem State.setKey_latchKey (k : Nibble) (b : Bool) : (s.setKey k b).latchKey = s.latchKey := rfl
@[simp] theorem State.setKey_fault (k : Nibble) (b : Bool) : (s.setKey k b).fault = s.fault := rfl
@[simp] theorem State.setKey_cycles (k : Nibble) (b : Bool) : (s.setKey k b).cycles = s.cycles := rfl
@[simp] theorem State.setKey_draws (k : Nibble) (b : Bool) : (s.setKey k b).draws = s.draws := rfl
@[simp] theorem State.setKey_reg (k : Nibble) (b : Bool) (r : Reg) : (s.setKey k b).reg r = s.reg r := by simp [State.reg]
@[simp] theorem State.setKey_readByte (k : Nibble) (b : Bool) (p : Nat) : (s.setKey k b).readByte p = s.readByte p := by simp [State.readByte]

/-! ## setWait -/

@[simp] theorem State.setWait_v (w l : Bool) (k : Nibble) : (s.setWait w l k).v = s.v := rfl
@[simp] theorem State.setWait_i (w l : Bool) (k : Nibble) : (s.setWait w l k).i = s.i := rfl
@[simp] theorem State.setWait_pc (w l : Bool) (k : Nibble) : (s.setWait w l k).pc = s.pc := rfl
@[simp] theorem State.setWait_stack (w l : Bool) (k : Nibble) : (s.setWait w l k).stack = s.stack := rfl
@[simp] theorem State.setWait_sp (w l : Bool) (k : Nibble) : (s.setWait w l k).sp = s.sp := rfl
@[simp] theorem State.setWait_dt (w l : Bool) (k : Nibble) : (s.setWait w l k).dt = s.dt := rfl
@[simp] theorem State.setWait_st (w l : Bool) (k : Nibble) : (s.setWait w l k).st = s.st := rfl
@[simp] theorem State.setWait_keys (w l : Bool) (k : Nibble) : (s.setWait w l k).keys = s.keys := rfl
@[simp] theorem State.setWait_fb (w l : Bool) (k : Nibble) : (s.setWait w l k).fb = s.fb := rfl
@[simp] theorem State.setWait_mem (w l : Bool) (k : Nibble) : (s.setWait w l k).mem = s.mem := rfl
@[simp] theorem State.setWait_waitKey (w l : Bool) (k : Nibble) : (s.setWait w l k).waitKey = w := rfl
@[simp] theorem State.setWait_latchValid (w l : Bool) (k : Nibble) : (s.setWait w l k).latchValid = l := rfl
@[simp] theorem State.setWait_latchKey (w l : Bool) (k : Nibble) : (s.setWait w l k).latchKey = k := rfl
@[simp] theorem State.setWait_fault (w l : Bool) (k : Nibble) : (s.setWait w l k).fault = s.fault := rfl
@[simp] theorem State.setWait_cycles (w l : Bool) (k : Nibble) : (s.setWait w l k).cycles = s.cycles := rfl
@[simp] theorem State.setWait_draws (w l : Bool) (k : Nibble) : (s.setWait w l k).draws = s.draws := rfl
@[simp] theorem State.setWait_reg (w l : Bool) (k : Nibble) (r : Reg) : (s.setWait w l k).reg r = s.reg r := by simp [State.reg]
@[simp] theorem State.setWait_readByte (w l : Bool) (k : Nibble) (p : Nat) : (s.setWait w l k).readByte p = s.readByte p := by simp [State.readByte]
@[simp] theorem State.setWait_key (w l : Bool) (k : Nibble) (q : Nibble) : (s.setWait w l k).key q = s.key q := by simp [State.key]

/-! ## setDT -/

@[simp] theorem State.setDT_v (b : Byte) : (s.setDT b).v = s.v := rfl
@[simp] theorem State.setDT_i (b : Byte) : (s.setDT b).i = s.i := rfl
@[simp] theorem State.setDT_pc (b : Byte) : (s.setDT b).pc = s.pc := rfl
@[simp] theorem State.setDT_stack (b : Byte) : (s.setDT b).stack = s.stack := rfl
@[simp] theorem State.setDT_sp (b : Byte) : (s.setDT b).sp = s.sp := rfl
@[simp] theorem State.setDT_dt (b : Byte) : (s.setDT b).dt = b := rfl
@[simp] theorem State.setDT_st (b : Byte) : (s.setDT b).st = s.st := rfl
@[simp] theorem State.setDT_keys (b : Byte) : (s.setDT b).keys = s.keys := rfl
@[simp] theorem State.setDT_fb (b : Byte) : (s.setDT b).fb = s.fb := rfl
@[simp] theorem State.setDT_mem (b : Byte) : (s.setDT b).mem = s.mem := rfl
@[simp] theorem State.setDT_waitKey (b : Byte) : (s.setDT b).waitKey = s.waitKey := rfl
@[simp] theorem State.setDT_latchValid (b : Byte) : (s.setDT b).latchValid = s.latchValid := rfl
@[simp] theorem State.setDT_latchKey (b : Byte) : (s.setDT b).latchKey = s.latchKey := rfl
@[simp] theorem State.setDT_fault (b : Byte) : (s.setDT b).fault = s.fault := rfl
@[simp] theorem State.setDT_cycles (b : Byte) : (s.setDT b).cycles = s.cycles := rfl
@[simp] theorem State.setDT_draws (b : Byte) : (s.setDT b).draws = s.draws := rfl
@[simp] theorem State.setDT_reg (b : Byte) (r : Reg) : (s.setDT b).reg r = s.reg r := by simp [State.reg]
@[simp] theorem State.setDT_readByte (b : Byte) (p : Nat) : (s.setDT b).readByte p = s.readByte p := by simp [State.readByte]
@[simp] theorem State.setDT_key (b : Byte) (q : Nibble) : (s.setDT b).key q = s.key q := by simp [State.key]

/-! ## setST -/

@[simp] theorem State.setST_v (b : Byte) : (s.setST b).v = s.v := rfl
@[simp] theorem State.setST_i (b : Byte) : (s.setST b).i = s.i := rfl
@[simp] theorem State.setST_pc (b : Byte) : (s.setST b).pc = s.pc := rfl
@[simp] theorem State.setST_stack (b : Byte) : (s.setST b).stack = s.stack := rfl
@[simp] theorem State.setST_sp (b : Byte) : (s.setST b).sp = s.sp := rfl
@[simp] theorem State.setST_dt (b : Byte) : (s.setST b).dt = s.dt := rfl
@[simp] theorem State.setST_st (b : Byte) : (s.setST b).st = b := rfl
@[simp] theorem State.setST_keys (b : Byte) : (s.setST b).keys = s.keys := rfl
@[simp] theorem State.setST_fb (b : Byte) : (s.setST b).fb = s.fb := rfl
@[simp] theorem State.setST_mem (b : Byte) : (s.setST b).mem = s.mem := rfl
@[simp] theorem State.setST_waitKey (b : Byte) : (s.setST b).waitKey = s.waitKey := rfl
@[simp] theorem State.setST_latchValid (b : Byte) : (s.setST b).latchValid = s.latchValid := rfl
@[simp] theorem State.setST_latchKey (b : Byte) : (s.setST b).latchKey = s.latchKey := rfl
@[simp] theorem State.setST_fault (b : Byte) : (s.setST b).fault = s.fault := rfl
@[simp] theorem State.setST_cycles (b : Byte) : (s.setST b).cycles = s.cycles := rfl
@[simp] theorem State.setST_draws (b : Byte) : (s.setST b).draws = s.draws := rfl
@[simp] theorem State.setST_reg (b : Byte) (r : Reg) : (s.setST b).reg r = s.reg r := by simp [State.reg]
@[simp] theorem State.setST_readByte (b : Byte) (p : Nat) : (s.setST b).readByte p = s.readByte p := by simp [State.readByte]
@[simp] theorem State.setST_key (b : Byte) (q : Nibble) : (s.setST b).key q = s.key q := by simp [State.key]

/-! ## setFb -/

@[simp] theorem State.setFb_v (fb : Framebuffer) : (s.setFb fb).v = s.v := rfl
@[simp] theorem State.setFb_i (fb : Framebuffer) : (s.setFb fb).i = s.i := rfl
@[simp] theorem State.setFb_pc (fb : Framebuffer) : (s.setFb fb).pc = s.pc := rfl
@[simp] theorem State.setFb_stack (fb : Framebuffer) : (s.setFb fb).stack = s.stack := rfl
@[simp] theorem State.setFb_sp (fb : Framebuffer) : (s.setFb fb).sp = s.sp := rfl
@[simp] theorem State.setFb_dt (fb : Framebuffer) : (s.setFb fb).dt = s.dt := rfl
@[simp] theorem State.setFb_st (fb : Framebuffer) : (s.setFb fb).st = s.st := rfl
@[simp] theorem State.setFb_keys (fb : Framebuffer) : (s.setFb fb).keys = s.keys := rfl
@[simp] theorem State.setFb_fb (fb : Framebuffer) : (s.setFb fb).fb = fb := rfl
@[simp] theorem State.setFb_mem (fb : Framebuffer) : (s.setFb fb).mem = s.mem := rfl
@[simp] theorem State.setFb_waitKey (fb : Framebuffer) : (s.setFb fb).waitKey = s.waitKey := rfl
@[simp] theorem State.setFb_latchValid (fb : Framebuffer) : (s.setFb fb).latchValid = s.latchValid := rfl
@[simp] theorem State.setFb_latchKey (fb : Framebuffer) : (s.setFb fb).latchKey = s.latchKey := rfl
@[simp] theorem State.setFb_fault (fb : Framebuffer) : (s.setFb fb).fault = s.fault := rfl
@[simp] theorem State.setFb_cycles (fb : Framebuffer) : (s.setFb fb).cycles = s.cycles := rfl
@[simp] theorem State.setFb_draws (fb : Framebuffer) : (s.setFb fb).draws = s.draws := rfl
@[simp] theorem State.setFb_reg (fb : Framebuffer) (r : Reg) : (s.setFb fb).reg r = s.reg r := by simp [State.reg]
@[simp] theorem State.setFb_readByte (fb : Framebuffer) (p : Nat) : (s.setFb fb).readByte p = s.readByte p := by simp [State.readByte]
@[simp] theorem State.setFb_key (fb : Framebuffer) (q : Nibble) : (s.setFb fb).key q = s.key q := by simp [State.key]

/-! ## nextDraw -/

@[simp] theorem State.nextDraw_v : (s.nextDraw).v = s.v := rfl
@[simp] theorem State.nextDraw_i : (s.nextDraw).i = s.i := rfl
@[simp] theorem State.nextDraw_pc : (s.nextDraw).pc = s.pc := rfl
@[simp] theorem State.nextDraw_stack : (s.nextDraw).stack = s.stack := rfl
@[simp] theorem State.nextDraw_sp : (s.nextDraw).sp = s.sp := rfl
@[simp] theorem State.nextDraw_dt : (s.nextDraw).dt = s.dt := rfl
@[simp] theorem State.nextDraw_st : (s.nextDraw).st = s.st := rfl
@[simp] theorem State.nextDraw_keys : (s.nextDraw).keys = s.keys := rfl
@[simp] theorem State.nextDraw_fb : (s.nextDraw).fb = s.fb := rfl
@[simp] theorem State.nextDraw_mem : (s.nextDraw).mem = s.mem := rfl
@[simp] theorem State.nextDraw_waitKey : (s.nextDraw).waitKey = s.waitKey := rfl
@[simp] theorem State.nextDraw_latchValid : (s.nextDraw).latchValid = s.latchValid := rfl
@[simp] theorem State.nextDraw_latchKey : (s.nextDraw).latchKey = s.latchKey := rfl
@[simp] theorem State.nextDraw_fault : (s.nextDraw).fault = s.fault := rfl
@[simp] theorem State.nextDraw_cycles : (s.nextDraw).cycles = s.cycles := rfl
@[simp] theorem State.nextDraw_draws : (s.nextDraw).draws = s.draws + 1 := rfl
@[simp] theorem State.nextDraw_reg (r : Reg) : (s.nextDraw).reg r = s.reg r := by simp [State.reg]
@[simp] theorem State.nextDraw_readByte (p : Nat) : (s.nextDraw).readByte p = s.readByte p := by simp [State.readByte]
@[simp] theorem State.nextDraw_key (q : Nibble) : (s.nextDraw).key q = s.key q := by simp [State.key]

/-! ## countCycle -/

@[simp] theorem State.countCycle_v : (s.countCycle).v = s.v := rfl
@[simp] theorem State.countCycle_i : (s.countCycle).i = s.i := rfl
@[simp] theorem State.countCycle_pc : (s.countCycle).pc = s.pc := rfl
@[simp] theorem State.countCycle_stack : (s.countCycle).stack = s.stack := rfl
@[simp] theorem State.countCycle_sp : (s.countCycle).sp = s.sp := rfl
@[simp] theorem State.countCycle_dt : (s.countCycle).dt = s.dt := rfl
@[simp] theorem State.countCycle_st : (s.countCycle).st = s.st := rfl
@[simp] theorem State.countCycle_keys : (s.countCycle).keys = s.keys := rfl
@[simp] theorem State.countCycle_fb : (s.countCycle).fb = s.fb := rfl
@[simp] theorem State.countCycle_mem : (s.countCycle).mem = s.mem := rfl
@[simp] theorem State.countCycle_waitKey : (s.countCycle).waitKey = s.waitKey := rfl
@[simp] theorem State.countCycle_latchValid : (s.countCycle).latchValid = s.latchValid := rfl
@[simp] theorem State.countCycle_latchKey : (s.countCycle).latchKey = s.latchKey := rfl
@[simp] theorem State.countCycle_fault : (s.countCycle).fault = s.fault := rfl
@[simp] theorem State.countCycle_cycles : (s.countCycle).cycles = s.cycles + 1 := rfl
@[simp] theorem State.countCycle_draws : (s.countCycle).draws = s.draws := rfl
@[simp] theorem State.countCycle_reg (r : Reg) : (s.countCycle).reg r = s.reg r := by simp [State.reg]
@[simp] theorem State.countCycle_readByte (p : Nat) : (s.countCycle).readByte p = s.readByte p := by simp [State.readByte]
@[simp] theorem State.countCycle_key (q : Nibble) : (s.countCycle).key q = s.key q := by simp [State.key]

/-! ## setReg -/

@[simp] theorem State.setReg_v (x : Reg) (b : Byte) : (s.setReg x b).v = s.v.set x.toNat b x.isLt := rfl
@[simp] theorem State.setReg_i (x : Reg) (b : Byte) : (s.setReg x b).i = s.i := rfl
@[simp] theorem State.setReg_pc (x : Reg) (b : Byte) : (s.setReg x b).pc = s.pc := rfl
@[simp] theorem State.setReg_stack (x : Reg) (b : Byte) : (s.setReg x b).stack = s.stack := rfl
@[simp] theorem State.setReg_sp (x : Reg) (b : Byte) : (s.setReg x b).sp = s.sp := rfl
@[simp] theorem State.setReg_dt (x : Reg) (b : Byte) : (s.setReg x b).dt = s.dt := rfl
@[simp] theorem State.setReg_st (x : Reg) (b : Byte) : (s.setReg x b).st = s.st := rfl
@[simp] theorem State.setReg_keys (x : Reg) (b : Byte) : (s.setReg x b).keys = s.keys := rfl
@[simp] theorem State.setReg_fb (x : Reg) (b : Byte) : (s.setReg x b).fb = s.fb := rfl
@[simp] theorem State.setReg_mem (x : Reg) (b : Byte) : (s.setReg x b).mem = s.mem := rfl
@[simp] theorem State.setReg_waitKey (x : Reg) (b : Byte) : (s.setReg x b).waitKey = s.waitKey := rfl
@[simp] theorem State.setReg_latchValid (x : Reg) (b : Byte) : (s.setReg x b).latchValid = s.latchValid := rfl
@[simp] theorem State.setReg_latchKey (x : Reg) (b : Byte) : (s.setReg x b).latchKey = s.latchKey := rfl
@[simp] theorem State.setReg_fault (x : Reg) (b : Byte) : (s.setReg x b).fault = s.fault := rfl
@[simp] theorem State.setReg_cycles (x : Reg) (b : Byte) : (s.setReg x b).cycles = s.cycles := rfl
@[simp] theorem State.setReg_draws (x : Reg) (b : Byte) : (s.setReg x b).draws = s.draws := rfl
@[simp] theorem State.setReg_readByte (x : Reg) (b : Byte) (p : Nat) : (s.setReg x b).readByte p = s.readByte p := by simp [State.readByte]
@[simp] theorem State.setReg_key (x : Reg) (b : Byte) (q : Nibble) : (s.setReg x b).key q = s.key q := by simp [State.key]

/-! ## setI -/

@[simp] theorem State.setI_v (w : Word) : (s.setI w).v = s.v := rfl
@[simp] theorem State.setI_i (w : Word) : (s.setI w).i = w := rfl
@[simp] theorem State.setI_pc (w : Word) : (s.setI w).pc = s.pc := rfl
@[simp] theorem State.setI_stack (w : Word) : (s.setI w).stack = s.stack := rfl
@[simp] theorem State.setI_sp (w : Word) : (s.setI w).sp = s.sp := rfl
@[simp] theorem State.setI_dt (w : Word) : (s.setI w).dt = s.dt := rfl
@[simp] theorem State.setI_st (w : Word) : (s.setI w).st = s.st := rfl
@[simp] theorem State.setI_keys (w : Word) : (s.setI w).keys = s.keys := rfl
@[simp] theorem State.setI_fb (w : Word) : (s.setI w).fb = s.fb := rfl
@[simp] theorem State.setI_mem (w : Word) : (s.setI w).mem = s.mem := rfl
@[simp] theorem State.setI_waitKey (w : Word) : (s.setI w).waitKey = s.waitKey := rfl
@[simp] theorem State.setI_latchValid (w : Word) : (s.setI w).latchValid = s.latchValid := rfl
@[simp] theorem State.setI_latchKey (w : Word) : (s.setI w).latchKey = s.latchKey := rfl
@[simp] theorem State.setI_fault (w : Word) : (s.setI w).fault = s.fault := rfl
@[simp] theorem State.setI_cycles (w : Word) : (s.setI w).cycles = s.cycles := rfl
@[simp] theorem State.setI_draws (w : Word) : (s.setI w).draws = s.draws := rfl
@[simp] theorem State.setI_reg (w : Word) (r : Reg) : (s.setI w).reg r = s.reg r := by simp [State.reg]
@[simp] theorem State.setI_readByte (w : Word) (p : Nat) : (s.setI w).readByte p = s.readByte p := by simp [State.readByte]
@[simp] theorem State.setI_key (w : Word) (q : Nibble) : (s.setI w).key q = s.key q := by simp [State.key]

/-! ## countTimers -/

@[simp] theorem State.countTimers_v (due : Bool) : (s.countTimers due).v = s.v := rfl
@[simp] theorem State.countTimers_i (due : Bool) : (s.countTimers due).i = s.i := rfl
@[simp] theorem State.countTimers_pc (due : Bool) : (s.countTimers due).pc = s.pc := rfl
@[simp] theorem State.countTimers_stack (due : Bool) : (s.countTimers due).stack = s.stack := rfl
@[simp] theorem State.countTimers_sp (due : Bool) : (s.countTimers due).sp = s.sp := rfl
@[simp] theorem State.countTimers_dt (due : Bool) : (s.countTimers due).dt = countDown due s.dt := rfl
@[simp] theorem State.countTimers_st (due : Bool) : (s.countTimers due).st = countDown due s.st := rfl
@[simp] theorem State.countTimers_keys (due : Bool) : (s.countTimers due).keys = s.keys := rfl
@[simp] theorem State.countTimers_fb (due : Bool) : (s.countTimers due).fb = s.fb := rfl
@[simp] theorem State.countTimers_mem (due : Bool) : (s.countTimers due).mem = s.mem := rfl
@[simp] theorem State.countTimers_waitKey (due : Bool) : (s.countTimers due).waitKey = s.waitKey := rfl
@[simp] theorem State.countTimers_latchValid (due : Bool) : (s.countTimers due).latchValid = s.latchValid := rfl
@[simp] theorem State.countTimers_latchKey (due : Bool) : (s.countTimers due).latchKey = s.latchKey := rfl
@[simp] theorem State.countTimers_fault (due : Bool) : (s.countTimers due).fault = s.fault := rfl
@[simp] theorem State.countTimers_cycles (due : Bool) : (s.countTimers due).cycles = s.cycles := rfl
@[simp] theorem State.countTimers_draws (due : Bool) : (s.countTimers due).draws = s.draws := rfl
@[simp] theorem State.countTimers_reg (due : Bool) (r : Reg) : (s.countTimers due).reg r = s.reg r := by simp [State.reg]
@[simp] theorem State.countTimers_readByte (due : Bool) (p : Nat) : (s.countTimers due).readByte p = s.readByte p := by simp [State.readByte]
@[simp] theorem State.countTimers_key (due : Bool) (q : Nibble) : (s.countTimers due).key q = s.key q := by simp [State.key]

/-! ## The fields with an index -/

theorem State.setReg_reg (x r : Reg) (b : Byte) :
    (s.setReg x b).reg r = if r = x then b else s.reg r := by
  have h : (x.toNat = r.toNat) = (r = x) := by
    rw [BitVec.toNat_inj]; exact propext eq_comm
  simp [State.reg, Vector.getElem_set, h]

@[simp] theorem State.setReg_reg_same (x : Reg) (b : Byte) : (s.setReg x b).reg x = b := by
  simp [State.setReg_reg]

theorem State.setReg_reg_other (x r : Reg) (b : Byte) (h : r ≠ x) :
    (s.setReg x b).reg r = s.reg r := by
  simp [State.setReg_reg, h]

theorem State.setKey_key (k q : Nibble) (b : Bool) :
    (s.setKey k b).key q = if q = k then b else s.key q := by
  have h : (k.toNat = q.toNat) = (q = k) := by
    rw [BitVec.toNat_inj]; exact propext eq_comm
  simp [State.key, Vector.getElem_set, h]

@[simp] theorem State.pop_sp : s.pop.sp.val = s.sp.val - 1 := rfl

theorem State.push_sp (w : Word) (h : s.sp.val < 16) : (s.push w).sp.val = s.sp.val + 1 := by
  simp [State.push, h]

theorem State.push_stack (w : Word) (h : s.sp.val < 16) :
    (s.push w).stack = s.stack.set s.sp.val w h := by
  simp [State.push, h]

/-- A popped `CALL` entry is the value pushed (spec 41_control_flow.md R151, R153). -/
theorem State.push_stackTop (w : Word) (h : s.sp.val < 16) : (s.push w).stackTop = w := by
  simp [State.stackTop, State.push_sp s w h, State.push_stack s w h]

/-- Two states are equal when every field is. -/
theorem State.ext_fields {s t : State} (hv : s.v = t.v) (hi : s.i = t.i) (hpc : s.pc = t.pc)
    (hstack : s.stack = t.stack) (hsp : s.sp = t.sp) (hdt : s.dt = t.dt) (hst : s.st = t.st)
    (hkeys : s.keys = t.keys) (hfb : s.fb = t.fb) (hmem : s.mem = t.mem) (hw : s.waitKey = t.waitKey)
    (hlv : s.latchValid = t.latchValid) (hlk : s.latchKey = t.latchKey) (hf : s.fault = t.fault)
    (hc : s.cycles = t.cycles) (hd : s.draws = t.draws) : s = t := by
  cases s; cases t; simp_all

/-- Two states have the same registers when every register reads the same. -/
theorem State.v_eq_of_reg {s t : State} (h : ∀ r : Reg, s.reg r = t.reg r) : s.v = t.v := by
  apply Vector.ext
  intro j hj
  have := h (BitVec.ofNat 4 j)
  simpa only [State.reg, BitVec.toNat_ofNat, Nat.mod_eq_of_lt hj, Nat.reducePow] using this

end Sys2Proof.Machine
end

