-- ==== Sys2Proof/Laws/Memory.lean ====
section
/-! SUPPORT. The laws of memory: reading after writing, the canonical form kept by every operation, the image
`LOAD` installs (spec 20_memory.md R65, R71, R75). -/

namespace Sys2Proof.Machine

/-- An erased address reads as the power-on image, every other as before. -/
theorem Memory.read_erase (m : Memory) (a p : Nat) :
    (m.erase a).read p = if p = a then Memory.unlisted a else m.read p := by
  induction m with
  | nil => by_cases h : p = a <;> simp [Memory.erase, Memory.read, h]
  | cons c rest ih =>
    obtain ⟨q, w⟩ := c
    simp only [Memory.erase, List.filter_cons] at ih ⊢
    by_cases hq : q = a
    · subst hq
      simp only [bne_self_eq_false, Bool.false_eq_true, if_false, ih, Memory.read]
      by_cases hp : p = q
      · simp [hp]
      · simp [hp, Ne.symm hp]
    · simp only [bne_iff_ne, ne_eq, hq, not_false_eq_true, if_true, Memory.read, ih]
      by_cases hp : q = p
      · subst hp; simp [hq]
      · simp [hp]

/-- An inserted cell reads back and leaves every other address alone, where no cell of its address was listed. -/
theorem Memory.read_insert (m : Memory) (a p : Nat) (b : Byte) (h : ∀ c ∈ m, c.1 ≠ a) :
    (m.insert a b).read p = if p = a then b else m.read p := by
  induction m with
  | nil =>
    by_cases hp : p = a
    · simp [Memory.insert, Memory.read, hp]
    · simp [Memory.insert, Memory.read, hp, Ne.symm hp]
  | cons c rest ih =>
    obtain ⟨q, w⟩ := c
    have hq : q ≠ a := h (q, w) List.mem_cons_self
    have hrest := ih (fun c hc => h c (List.mem_cons_of_mem _ hc))
    by_cases hlt : a < q
    · simp only [Memory.insert, hlt, if_true, Memory.read]
      by_cases hp : p = a
      · simp [hp]
      · simp [hp, Ne.symm hp]
    · simp only [Memory.insert, hlt, if_false, Memory.read, hrest]
      by_cases hp : q = p
      · subst hp; simp [hq]
      · simp [hp]

theorem Memory.mem_erase_ne (m : Memory) (a : Nat) : ∀ c ∈ m.erase a, c.1 ≠ a := by
  intro c hc
  simpa [Memory.erase] using (List.mem_filter.mp hc).2

/-- Reading after writing, on any memory. -/
theorem Memory.read_write (m : Memory) (a p : Nat) (b : Byte) :
    (m.write a b).read p = if p = a then b else m.read p := by
  unfold Memory.write
  split
  case isTrue h => rw [Memory.read_erase, h]
  case isFalse h =>
    rw [Memory.read_insert _ _ _ _ (Memory.mem_erase_ne m a), Memory.read_erase]
    by_cases hp : p = a <;> simp [hp]

theorem Memory.mem_insert (m : Memory) (a : Nat) (b : Byte) (c : Host.Cell) :
    c ∈ m.insert a b ↔ c = (a, b) ∨ c ∈ m := by
  induction m with
  | nil => simp [Memory.insert]
  | cons d rest ih =>
    obtain ⟨q, w⟩ := d
    by_cases hlt : a < q
    · simp [Memory.insert, hlt]
    · simp only [Memory.insert, hlt, if_false, List.mem_cons, ih]
      tauto

theorem Memory.pairwise_insert (m : Memory) (a : Nat) (b : Byte) (h : ∀ c ∈ m, c.1 ≠ a)
    (hs : m.Pairwise (fun c d => c.1 < d.1)) :
    (m.insert a b).Pairwise (fun c d => c.1 < d.1) := by
  induction m with
  | nil => simp [Memory.insert]
  | cons d rest ih =>
    obtain ⟨q, w⟩ := d
    have hq : q ≠ a := h (q, w) List.mem_cons_self
    obtain ⟨h1, h2⟩ := List.pairwise_cons.mp hs
    by_cases hlt : a < q
    · simp only [Memory.insert, hlt, if_true, List.pairwise_cons]
      refine ⟨?_, h1, h2⟩
      intro c hc
      rcases List.mem_cons.mp hc with rfl | hc
      · exact hlt
      · exact Nat.lt_trans hlt (h1 c hc)
    · simp only [Memory.insert, hlt, if_false, List.pairwise_cons]
      refine ⟨?_, ih (fun c hc => h c (List.mem_cons_of_mem _ hc)) h2⟩
      intro c hc
      rcases (Memory.mem_insert rest a b c).mp hc with rfl | hc
      · exact Nat.lt_of_le_of_ne (Nat.not_lt.mp hlt) hq
      · exact h1 c hc

/-- Taking an address out keeps the canonical form. -/
theorem Memory.wf_erase (m : Memory) (a : Nat) (h : m.wf) : (m.erase a).wf :=
  ⟨h.1.sublist List.filter_sublist, fun c hc => h.2 c (List.mem_filter.mp hc).1⟩

/-- A write inside memory keeps the canonical form. -/
theorem Memory.wf_write (m : Memory) (a : Nat) (b : Byte) (ha : a < Config.memSize) (h : m.wf) :
    (m.write a b).wf := by
  unfold Memory.write
  split
  case isTrue => exact Memory.wf_erase m a h
  case isFalse hb =>
    have he := Memory.wf_erase m a h
    refine ⟨Memory.pairwise_insert _ a b (Memory.mem_erase_ne m a) he.1, ?_⟩
    intro c hc
    rcases (Memory.mem_insert _ a b c).mp hc with rfl | hc
    · exact ⟨ha, hb⟩
    · exact he.2 c hc

theorem effAddr_lt (a : Nat) : effAddr a < Config.memSize := Nat.mod_lt _ (by decide)

/-- `MemWrite` keeps the canonical form, whatever the address (00_scope.md R12). -/
theorem State.writeByte_wf (s : State) (a : Nat) (b : Byte) (h : s.mem.wf) : (s.writeByte a b).mem.wf := by
  simpa using Memory.wf_write s.mem (effAddr a) b (effAddr_lt a) h

/-- `MemRead` after `MemWrite`: addresses are the same when they agree modulo 4096 (00_scope.md R12). -/
theorem State.writeByte_readByte (s : State) (a p : Nat) (b : Byte) :
    (s.writeByte a b).readByte p = if p % 4096 = a % 4096 then b else s.readByte p := by
  simp only [State.readByte, State.writeByte_mem, Memory.read_write, effAddr]

theorem Memory.ofRom_cons (a : Nat) (b : Byte) (rest : List Byte) :
    Memory.ofRom a (b :: rest) =
      if b = Memory.unlisted a then Memory.ofRom (a + 1) rest else (a, b) :: Memory.ofRom (a + 1) rest := rfl

theorem Memory.mem_ofRom_le (rom : List Byte) (a : Nat) : ∀ c ∈ Memory.ofRom a rom, a ≤ c.1 := by
  induction rom generalizing a with
  | nil => simp [Memory.ofRom]
  | cons b rest ih =>
    intro c hc
    rw [Memory.ofRom_cons] at hc
    split at hc
    · exact Nat.le_of_succ_le (ih (a + 1) c hc)
    · rcases List.mem_cons.mp hc with rfl | hc
      · exact Nat.le_refl _
      · exact Nat.le_of_succ_le (ih (a + 1) c hc)

/-- A ROM's image is in canonical form when it fits below 4096. -/
theorem Memory.wf_ofRom (rom : List Byte) (a : Nat) (h : a + rom.length ≤ Config.memSize) :
    (Memory.ofRom a rom).wf := by
  induction rom generalizing a with
  | nil => exact ⟨List.Pairwise.nil, fun c hc => nomatch hc⟩
  | cons b rest ih =>
    have hr := ih (a + 1) (by simp only [List.length_cons] at h; omega)
    rw [Memory.ofRom_cons]
    split
    · exact hr
    case isFalse hb =>
      refine ⟨List.pairwise_cons.mpr ⟨fun c hc => Memory.mem_ofRom_le rest (a + 1) c hc, hr.1⟩, ?_⟩
      intro c hc
      rcases List.mem_cons.mp hc with rfl | hc
      · exact ⟨by simp only [List.length_cons] at h; show a < _; omega, hb⟩
      · exact hr.2 c hc

theorem Memory.read_of_lt (m : Memory) (p : Nat) (h : ∀ c ∈ m, p < c.1) : m.read p = Memory.unlisted p := by
  induction m with
  | nil => rfl
  | cons c rest ih =>
    obtain ⟨q, w⟩ := c
    have hq : q ≠ p := Nat.ne_of_gt (h (q, w) List.mem_cons_self)
    simp [Memory.read, hq, ih (fun c hc => h c (List.mem_cons_of_mem _ hc))]

/-- Inside a ROM's image a read gives the ROM byte, outside it the power-on image (20_memory.md R71). -/
theorem Memory.read_ofRom (rom : List Byte) (a p : Nat) :
    (Memory.ofRom a rom).read p =
      if h : a ≤ p ∧ p - a < rom.length then rom[p - a]'h.2 else Memory.unlisted p := by
  induction rom generalizing a with
  | nil => simp [Memory.ofRom, Memory.read]
  | cons b rest ih =>
    have hstep : (Memory.ofRom a (b :: rest)).read p =
        if p = a then b else (Memory.ofRom (a + 1) rest).read p := by
      rw [Memory.ofRom_cons]
      split
      case isTrue hb =>
        by_cases hp : p = a
        · subst hp
          rw [if_pos rfl, hb]
          exact Memory.read_of_lt _ _ (Memory.mem_ofRom_le rest (p + 1))
        · rw [if_neg hp]
      case isFalse => simp [Memory.read, eq_comm]
    rw [hstep, ih]
    by_cases hp : p = a
    · subst hp; simp
    · rw [if_neg hp]
      by_cases hle : a + 1 ≤ p
      · have e : p - a = (p - (a + 1)) + 1 := by omega
        by_cases hlen : p - (a + 1) < rest.length
        · simp [hle, hlen, e, Nat.le_of_succ_le hle]
        · simp [hle, hlen, e]
      · rw [dif_neg (by omega), dif_neg (by omega)]

end Sys2Proof.Machine
end

