-- ==== Sys2Proof/Laws/Ops.lean ====
section
/-! SUPPORT. What the shared operations with a loop do, said once each: the register dump (spec 42_memory_index.md
R174), the register load (R175), and the sprite loops (43_graphics.md R191). -/

namespace Sys2Proof.Machine

/-! ## Register dump -/

theorem State.storeUpTo_succ (s : State) (k : Nat) :
    s.storeUpTo (k + 1) = (s.storeUpTo k).writeAtI k (s.reg (BitVec.ofNat 4 k)) := rfl

/-- A dump changes nothing but memory. -/
theorem State.storeUpTo_same (s : State) (n : Nat) : { s.storeUpTo n with mem := s.mem } = s := by
  induction n with
  | zero => rfl
  | succ k ih =>
    rw [State.storeUpTo_succ]
    exact ih

@[simp] theorem State.storeUpTo_i (s : State) (n : Nat) : (s.storeUpTo n).i = s.i := by
  have h := congrArg State.i (s.storeUpTo_same n)
  exact h

@[simp] theorem State.storeUpTo_pc (s : State) (n : Nat) : (s.storeUpTo n).pc = s.pc := by
  have h := congrArg State.pc (s.storeUpTo_same n)
  exact h

@[simp] theorem State.storeUpTo_v (s : State) (n : Nat) : (s.storeUpTo n).v = s.v := by
  have h := congrArg State.v (s.storeUpTo_same n)
  exact h

@[simp] theorem State.storeUpTo_stack (s : State) (n : Nat) : (s.storeUpTo n).stack = s.stack := by
  have h := congrArg State.stack (s.storeUpTo_same n)
  exact h

@[simp] theorem State.storeUpTo_sp (s : State) (n : Nat) : (s.storeUpTo n).sp = s.sp := by
  have h := congrArg State.sp (s.storeUpTo_same n)
  exact h

@[simp] theorem State.storeUpTo_dt (s : State) (n : Nat) : (s.storeUpTo n).dt = s.dt := by
  have h := congrArg State.dt (s.storeUpTo_same n)
  exact h

@[simp] theorem State.storeUpTo_st (s : State) (n : Nat) : (s.storeUpTo n).st = s.st := by
  have h := congrArg State.st (s.storeUpTo_same n)
  exact h

@[simp] theorem State.storeUpTo_keys (s : State) (n : Nat) : (s.storeUpTo n).keys = s.keys := by
  have h := congrArg State.keys (s.storeUpTo_same n)
  exact h

@[simp] theorem State.storeUpTo_fb (s : State) (n : Nat) : (s.storeUpTo n).fb = s.fb := by
  have h := congrArg State.fb (s.storeUpTo_same n)
  exact h

@[simp] theorem State.storeUpTo_waitKey (s : State) (n : Nat) : (s.storeUpTo n).waitKey = s.waitKey := by
  have h := congrArg State.waitKey (s.storeUpTo_same n)
  exact h

@[simp] theorem State.storeUpTo_latchValid (s : State) (n : Nat) : (s.storeUpTo n).latchValid = s.latchValid := by
  have h := congrArg State.latchValid (s.storeUpTo_same n)
  exact h

@[simp] theorem State.storeUpTo_latchKey (s : State) (n : Nat) : (s.storeUpTo n).latchKey = s.latchKey := by
  have h := congrArg State.latchKey (s.storeUpTo_same n)
  exact h

@[simp] theorem State.storeUpTo_fault (s : State) (n : Nat) : (s.storeUpTo n).fault = s.fault := by
  have h := congrArg State.fault (s.storeUpTo_same n)
  exact h

@[simp] theorem State.storeUpTo_cycles (s : State) (n : Nat) : (s.storeUpTo n).cycles = s.cycles := by
  have h := congrArg State.cycles (s.storeUpTo_same n)
  exact h

@[simp] theorem State.storeUpTo_draws (s : State) (n : Nat) : (s.storeUpTo n).draws = s.draws := by
  have h := congrArg State.draws (s.storeUpTo_same n)
  exact h

@[simp] theorem State.storeUpTo_reg (s : State) (n : Nat) (r : Reg) : (s.storeUpTo n).reg r = s.reg r := by
  simp [State.reg]

/-- One more byte of a dump. -/
theorem State.storeUpTo_readByte_succ (s : State) (k p : Nat) :
    (s.storeUpTo (k + 1)).readByte p =
      if p % 4096 = (s.i.toNat + k) % 4096 then s.reg (BitVec.ofNat 4 k) else (s.storeUpTo k).readByte p := by
  rw [State.storeUpTo_succ, State.writeAtI_eq, State.writeByte_readByte, State.storeUpTo_i]

/-- Outside the bytes it stores, a dump leaves memory as it was. -/
theorem State.storeUpTo_readByte_outside (s : State) (n p : Nat)
    (h : ∀ k < n, p % 4096 ≠ (s.i.toNat + k) % 4096) : (s.storeUpTo n).readByte p = s.readByte p := by
  induction n with
  | zero => rfl
  | succ k ih =>
    rw [State.storeUpTo_readByte_succ, if_neg (h k (Nat.lt_succ_self k))]
    exact ih (fun j hj => h j (Nat.lt_succ_of_lt hj))

/-- Byte `k` of a dump is `V[k]`. -/
theorem State.storeUpTo_readByte_inside (s : State) (n k : Nat) (hn : n ≤ 16) (hk : k < n) :
    (s.storeUpTo n).readByte (s.i.toNat + k) = s.reg (BitVec.ofNat 4 k) := by
  induction n with
  | zero => exact absurd hk (Nat.not_lt_zero k)
  | succ j ih =>
    rw [State.storeUpTo_readByte_succ]
    by_cases hjk : k = j
    · rw [if_pos (by rw [hjk]), hjk]
    · rw [if_neg (by omega)]
      exact ih (by omega) (by omega)

/-- A dump keeps the canonical form of memory. -/
theorem State.storeUpTo_wf (s : State) (n : Nat) (h : s.mem.wf) : (s.storeUpTo n).mem.wf := by
  induction n with
  | zero => exact h
  | succ k ih => exact State.writeByte_wf _ _ _ ih

/-! ## Register load -/

theorem State.loadUpTo_succ (s : State) (k : Nat) :
    s.loadUpTo (k + 1) = (s.loadUpTo k).setReg (BitVec.ofNat 4 k) (s.readAtI k) := rfl

/-- A load changes nothing but the `V` registers. -/
theorem State.loadUpTo_same (s : State) (n : Nat) : { s.loadUpTo n with v := s.v } = s := by
  induction n with
  | zero => rfl
  | succ k ih =>
    rw [State.loadUpTo_succ]
    exact ih

@[simp] theorem State.loadUpTo_pc (s : State) (n : Nat) : (s.loadUpTo n).pc = s.pc := by
  have h := congrArg State.pc (s.loadUpTo_same n)
  exact h

@[simp] theorem State.loadUpTo_i (s : State) (n : Nat) : (s.loadUpTo n).i = s.i := by
  have h := congrArg State.i (s.loadUpTo_same n)
  exact h

@[simp] theorem State.loadUpTo_stack (s : State) (n : Nat) : (s.loadUpTo n).stack = s.stack := by
  have h := congrArg State.stack (s.loadUpTo_same n)
  exact h

@[simp] theorem State.loadUpTo_sp (s : State) (n : Nat) : (s.loadUpTo n).sp = s.sp := by
  have h := congrArg State.sp (s.loadUpTo_same n)
  exact h

@[simp] theorem State.loadUpTo_dt (s : State) (n : Nat) : (s.loadUpTo n).dt = s.dt := by
  have h := congrArg State.dt (s.loadUpTo_same n)
  exact h

@[simp] theorem State.loadUpTo_st (s : State) (n : Nat) : (s.loadUpTo n).st = s.st := by
  have h := congrArg State.st (s.loadUpTo_same n)
  exact h

@[simp] theorem State.loadUpTo_keys (s : State) (n : Nat) : (s.loadUpTo n).keys = s.keys := by
  have h := congrArg State.keys (s.loadUpTo_same n)
  exact h

@[simp] theorem State.loadUpTo_fb (s : State) (n : Nat) : (s.loadUpTo n).fb = s.fb := by
  have h := congrArg State.fb (s.loadUpTo_same n)
  exact h

@[simp] theorem State.loadUpTo_mem (s : State) (n : Nat) : (s.loadUpTo n).mem = s.mem := by
  have h := congrArg State.mem (s.loadUpTo_same n)
  exact h

@[simp] theorem State.loadUpTo_waitKey (s : State) (n : Nat) : (s.loadUpTo n).waitKey = s.waitKey := by
  have h := congrArg State.waitKey (s.loadUpTo_same n)
  exact h

@[simp] theorem State.loadUpTo_latchValid (s : State) (n : Nat) : (s.loadUpTo n).latchValid = s.latchValid := by
  have h := congrArg State.latchValid (s.loadUpTo_same n)
  exact h

@[simp] theorem State.loadUpTo_latchKey (s : State) (n : Nat) : (s.loadUpTo n).latchKey = s.latchKey := by
  have h := congrArg State.latchKey (s.loadUpTo_same n)
  exact h

@[simp] theorem State.loadUpTo_fault (s : State) (n : Nat) : (s.loadUpTo n).fault = s.fault := by
  have h := congrArg State.fault (s.loadUpTo_same n)
  exact h

@[simp] theorem State.loadUpTo_cycles (s : State) (n : Nat) : (s.loadUpTo n).cycles = s.cycles := by
  have h := congrArg State.cycles (s.loadUpTo_same n)
  exact h

@[simp] theorem State.loadUpTo_draws (s : State) (n : Nat) : (s.loadUpTo n).draws = s.draws := by
  have h := congrArg State.draws (s.loadUpTo_same n)
  exact h

@[simp] theorem State.loadUpTo_readByte (s : State) (n p : Nat) : (s.loadUpTo n).readByte p = s.readByte p := by
  simp [State.readByte]

/-- Registers below the count hold their byte at `I + k`, the others what they held. -/
theorem State.loadUpTo_reg (s : State) (n : Nat) (hn : n ≤ 16) (r : Reg) :
    (s.loadUpTo n).reg r = if r.toNat < n then s.readByte (s.i.toNat + r.toNat) else s.reg r := by
  induction n with
  | zero => simp [State.loadUpTo]
  | succ k ih =>
    rw [State.loadUpTo_succ, State.setReg_reg, ih (by omega), State.readAtI_eq]
    have hk : r = BitVec.ofNat 4 k ↔ r.toNat = k := by
      rw [← BitVec.toNat_inj, BitVec.toNat_ofNat, Nat.mod_eq_of_lt (by omega)]
    by_cases h : r.toNat = k
    · rw [if_pos (hk.mpr h), if_pos (by omega), h]
    · rw [if_neg (fun e => h (hk.mp e))]
      by_cases hlt : r.toNat < k
      · rw [if_pos hlt, if_pos (by omega)]
      · rw [if_neg hlt, if_neg (by omega)]

/-! ## Framebuffer -/

/-- A flip changes the one pixel, positions counted modulo 32 and 64. -/
theorem Framebuffer.pixel_flip (fb : Framebuffer) (y x y' x' : Nat) :
    (fb.flip y x).pixel y' x' =
      (fb.pixel y' x' ^^ (decide (y' % 32 = y % 32) && decide (x' % 64 = x % 64))) := by
  unfold Framebuffer.flip Framebuffer.pixel
  by_cases hy : y' % 32 = y % 32
  · by_cases hx : x' % 64 = x % 64
    · simp [hy, hx]
    · simp [hy, hx, Ne.symm hx]
  · simp [hy, Ne.symm hy]

/-- A cleared framebuffer is off everywhere. -/
@[simp] theorem Framebuffer.pixel_clear (y x : Nat) : Framebuffer.clear.pixel y x = false := by
  simp [Framebuffer.clear, Framebuffer.pixel]

/-- A sum of two residues, reduced. -/
theorem ring_add (m a k : Nat) (ha : a < m) (hk : k < m) :
    (a + k) % m = if a + k < m then a + k else a + k - m := by
  by_cases h : a + k < m
  · rw [if_pos h, Nat.mod_eq_of_lt h]
  · rw [if_neg h, Nat.mod_eq_sub_mod (Nat.not_lt.mp h), Nat.mod_eq_of_lt (by omega)]

/-- A difference of two residues, reduced. -/
theorem ring_sub (m a b : Nat) (ha : a < m) (hb : b < m) :
    (a + m - b) % m = if b ≤ a then a - b else a + m - b := by
  by_cases h : b ≤ a
  · rw [if_pos h, show a + m - b = (a - b) + m by omega, Nat.add_mod_right, Nat.mod_eq_of_lt (by omega)]
  · rw [if_neg h, Nat.mod_eq_of_lt (by omega)]

/-- Positions on the ring of rows or columns, as offsets from a start. -/
theorem wrapOffset_eq_iff (m start p k : Nat) (hk : k < m) :
    wrapOffset m start p = k ↔ p % m = (start + k) % m := by
  have hm : 0 < m := Nat.lt_of_le_of_lt (Nat.zero_le k) hk
  have hp := Nat.mod_lt p hm
  have hs := Nat.mod_lt start hm
  have hsum : (start + k) % m = (start % m + k) % m := by simp
  rw [wrapOffset, hsum, ring_sub m _ _ hp hs, ring_add m _ k hs hk]
  generalize p % m = P at *
  generalize start % m = S at *
  split <;> split <;> omega

theorem drawPixel_fst (bit : Bool) (py px : Nat) (acc : Framebuffer × Bool) (y x : Nat) :
    (drawPixel bit py px acc).1.pixel y x =
      (acc.1.pixel y x ^^ (bit && (decide (y % 32 = py % 32) && decide (x % 64 = px % 64)))) := by
  cases bit <;> simp [drawPixel, Framebuffer.pixel_flip]

theorem drawPixel_snd (bit : Bool) (py px : Nat) (acc : Framebuffer × Bool) :
    (drawPixel bit py px acc).2 = (acc.2 || (bit && acc.1.pixel py px)) := by
  cases bit <;> simp [drawPixel]

theorem drawColumns_succ (b : Byte) (py x0 c : Nat) (acc : Framebuffer × Bool) :
    drawColumns b py x0 acc (c + 1) =
      drawPixel (spriteBit b c) py (x0 + c) (drawColumns b py x0 acc c) := rfl

/-- One sprite row laid over the framebuffer, pixel by pixel. -/
theorem drawColumns_pixel (b : Byte) (py x0 n : Nat) (hn : n ≤ 64) (acc : Framebuffer × Bool) (y x : Nat) :
    (drawColumns b py x0 acc n).1.pixel y x =
      (acc.1.pixel y x ^^ (decide (y % 32 = py % 32) && (decide (wrapOffset 64 x0 x < n) &&
        spriteBit b (wrapOffset 64 x0 x)))) := by
  induction n with
  | zero => simp [drawColumns]
  | succ c ih =>
    rw [drawColumns_succ, drawPixel_fst, ih (by omega)]
    have hc := wrapOffset_eq_iff 64 x0 x c (by omega)
    by_cases hx : wrapOffset 64 x0 x = c
    · simp [hc.mp hx, hx, Bool.and_comm]
    · have hx' : ¬ x % 64 = (x0 + c) % 64 := fun e => hx (hc.mpr e)
      have hlt : (wrapOffset 64 x0 x < c + 1) = (wrapOffset 64 x0 x < c) := propext (by omega)
      simp [hx', hlt]

/-- One sprite row collides where one of its 1 bits meets an on pixel. -/
theorem drawColumns_hit (b : Byte) (py x0 n : Nat) (hn : n ≤ 64) (acc : Framebuffer × Bool) :
    (drawColumns b py x0 acc n).2 = true ↔
      acc.2 = true ∨ ∃ c < n, spriteBit b c = true ∧ acc.1.pixel py (x0 + c) = true := by
  induction n with
  | zero => simp [drawColumns]
  | succ c ih =>
    have hoff : wrapOffset 64 x0 (x0 + c) = c := (wrapOffset_eq_iff 64 x0 (x0 + c) c (by omega)).mpr rfl
    rw [drawColumns_succ, drawPixel_snd, Bool.or_eq_true, ih (by omega), Bool.and_eq_true,
      drawColumns_pixel b py x0 c (by omega), hoff]
    simp only [Nat.lt_irrefl, decide_false, Bool.false_and, Bool.and_false, Bool.xor_false]
    constructor
    · rintro ((h | ⟨d, hd, h⟩) | h)
      · exact .inl h
      · exact .inr ⟨d, by omega, h⟩
      · exact .inr ⟨c, by omega, h⟩
    · rintro (h | ⟨d, hd, h⟩)
      · exact .inl (.inl h)
      · by_cases hdc : d = c
        · subst hdc; exact .inr h
        · exact .inl (.inr ⟨d, by omega, h⟩)

theorem State.drawRows_succ (s : State) (y0 x0 r : Nat) :
    s.drawRows y0 x0 (r + 1) = drawColumns (s.readAtI r) (y0 + r) x0 (s.drawRows y0 x0 r) 8 := rfl

/-- The whole sprite laid over the framebuffer, pixel by pixel (43_graphics.md R191). -/
theorem State.drawRows_pixel (s : State) (y0 x0 n : Nat) (hn : n ≤ 32) (y x : Nat) :
    (s.drawRows y0 x0 n).1.pixel y x = (s.fb.pixel y x ^^ s.spriteOver y0 x0 n y x) := by
  induction n with
  | zero => simp [State.drawRows, State.spriteOver]
  | succ r ih =>
    rw [State.drawRows_succ, drawColumns_pixel _ _ _ _ (by omega), ih (by omega), State.readAtI_eq]
    unfold State.spriteOver spriteBit
    have hr := wrapOffset_eq_iff 32 y0 y r (by omega)
    by_cases hy : wrapOffset 32 y0 y = r
    · simp [hr.mp hy, hy]
    · have hy' : ¬ y % 32 = (y0 + r) % 32 := fun e => hy (hr.mpr e)
      have hlt : (wrapOffset 32 y0 y < r + 1) = (wrapOffset 32 y0 y < r) := propext (by omega)
      simp [hy', hlt]

/-- A draw collides where a 1 bit of the sprite meets a pixel that was on (43_graphics.md R191). -/
theorem State.drawRows_hit (s : State) (y0 x0 n : Nat) (hn : n ≤ 32) :
    (s.drawRows y0 x0 n).2 = true ↔
      ∃ r < n, ∃ c < 8, spriteBit (s.readByte (s.i.toNat + r)) c = true ∧
        s.fb.pixel (y0 + r) (x0 + c) = true := by
  induction n with
  | zero => simp [State.drawRows]
  | succ r ih =>
    rw [State.drawRows_succ, drawColumns_hit _ _ _ _ (by omega), ih (by omega), State.readAtI_eq]
    have hoff : wrapOffset 32 y0 (y0 + r) = r := (wrapOffset_eq_iff 32 y0 (y0 + r) r (by omega)).mpr rfl
    have hpix : ∀ c, (s.drawRows y0 x0 r).1.pixel (y0 + r) (x0 + c) = s.fb.pixel (y0 + r) (x0 + c) := by
      intro c
      rw [State.drawRows_pixel s y0 x0 r (by omega)]
      simp [State.spriteOver, hoff]
    simp only [hpix]
    constructor
    · rintro (⟨q, hq, h⟩ | h)
      · exact ⟨q, by omega, h⟩
      · exact ⟨r, by omega, h⟩
    · rintro ⟨q, hq, h⟩
      by_cases hqr : q = r
      · subst hqr; exact .inr h
      · exact .inl ⟨q, by omega, h⟩

end Sys2Proof.Machine
end

