-- ==== Sys2Proof/Laws/PerInstr.lean ====
section
/-! SUPPORT. The family `EncodeInRow`: the word an instruction encodes to is a word of its own row of the opcode
table, `(op AND mask) = match` (spec 30_encoding.md R94, R95, spec/opcode_table.json). -/

namespace Sys2Proof.Laws.EncodeInRow

/-- The encoded word matches the instruction's row. -/
def Statement (i : Instr) : Prop := encode i &&& (tableRow i).1 = (tableRow i).2

/-- A mask of the group nibble alone, on format `NNN`. -/
theorem inRow_encNNN (g : Nibble) (nnn : Addr12) :
    encNNN g nnn &&& 0xF000#16 = encNNN g 0#12 := by
  have h := and_parts 4 12 g 0xF#4 nnn 0#12
  rw [and_ones, and_zero] at h
  exact h

/-- A mask of the group nibble alone, on formats with an `x`. -/
theorem inRow_encXNN (g : Nibble) (x : Reg) (nn : Byte) :
    encXNN g x nn &&& 0xF000#16 = encNNN g 0#12 := inRow_encNNN g (x ++ nn)

/-- A mask of the group nibble alone, on format `XYN`. -/
theorem inRow_encXYN (g : Nibble) (x y : Reg) (n : Nibble) :
    encXYN g x y n &&& 0xF000#16 = encNNN g 0#12 := inRow_encNNN g (x ++ (y ++ n))

/-- A mask of group and low nibble, on format `XYS`. -/
theorem inRow_encXYS (g : Nibble) (x y : Reg) (n : Nibble) :
    encXYN g x y n &&& 0xF00F#16 = encXYN g 0#4 0#4 n := by
  have h := and_parts 4 12 g 0xF#4 (x ++ (y ++ n)) 0x00F#12
  have h2 := and_parts 4 8 x 0#4 (y ++ n) 0x0F#8
  have h3 := and_parts 4 4 y 0#4 n 0xF#4
  rw [and_ones, and_zero] at h3
  rw [and_zero] at h2
  rw [and_ones] at h
  exact h.trans (congrArg (fun t : BitVec 12 => (g ++ t : BitVec 16))
    (h2.trans (congrArg (fun t : BitVec 8 => (0#4 ++ t : BitVec 12)) h3)))

/-- A mask of group nibble and low byte, on format `XSS`. -/
theorem inRow_encXSS (g : Nibble) (x : Reg) (nn : Byte) :
    encXNN g x nn &&& 0xF0FF#16 = encXNN g 0#4 nn := by
  have h := and_parts 4 12 g 0xF#4 (x ++ nn) 0x0FF#12
  have h2 := and_parts 4 8 x 0#4 nn 0xFF#8
  rw [and_zero, show nn &&& 0xFF#8 = nn by simpa using BitVec.and_allOnes (x := nn)] at h2
  rw [and_ones] at h
  exact h.trans (congrArg (fun t : BitVec 12 => (g ++ t : BitVec 16)) h2)

theorem cls : Statement .cls := by unfold Statement; decide
theorem ret : Statement .ret := by unfold Statement; decide
theorem sys (nnn : Addr12) : Statement (.sys nnn) := inRow_encNNN 0x0 nnn
theorem jp (nnn : Addr12) : Statement (.jp nnn) := inRow_encNNN 0x1 nnn
theorem call (nnn : Addr12) : Statement (.call nnn) := inRow_encNNN 0x2 nnn
theorem seImm (x : Reg) (nn : Byte) : Statement (.seImm x nn) := inRow_encXNN 0x3 x nn
theorem sneImm (x : Reg) (nn : Byte) : Statement (.sneImm x nn) := inRow_encXNN 0x4 x nn
theorem seReg (x y : Reg) : Statement (.seReg x y) := inRow_encXYS 0x5 x y 0
theorem ldImm (x : Reg) (nn : Byte) : Statement (.ldImm x nn) := inRow_encXNN 0x6 x nn
theorem addImm (x : Reg) (nn : Byte) : Statement (.addImm x nn) := inRow_encXNN 0x7 x nn
theorem ldReg (x y : Reg) : Statement (.ldReg x y) := inRow_encXYS 0x8 x y 0
theorem orReg (x y : Reg) : Statement (.orReg x y) := inRow_encXYS 0x8 x y 1
theorem andReg (x y : Reg) : Statement (.andReg x y) := inRow_encXYS 0x8 x y 2
theorem xorReg (x y : Reg) : Statement (.xorReg x y) := inRow_encXYS 0x8 x y 3
theorem addReg (x y : Reg) : Statement (.addReg x y) := inRow_encXYS 0x8 x y 4
theorem subReg (x y : Reg) : Statement (.subReg x y) := inRow_encXYS 0x8 x y 5
theorem shr (x y : Reg) : Statement (.shr x y) := inRow_encXYS 0x8 x y 6
theorem subn (x y : Reg) : Statement (.subn x y) := inRow_encXYS 0x8 x y 7
theorem shl (x y : Reg) : Statement (.shl x y) := inRow_encXYS 0x8 x y 0xE
theorem sneReg (x y : Reg) : Statement (.sneReg x y) := inRow_encXYS 0x9 x y 0
theorem ldI (nnn : Addr12) : Statement (.ldI nnn) := inRow_encNNN 0xA nnn
theorem jpV0 (nnn : Addr12) : Statement (.jpV0 nnn) := inRow_encNNN 0xB nnn
theorem rnd (x : Reg) (nn : Byte) : Statement (.rnd x nn) := inRow_encXNN 0xC x nn
theorem drw (x y : Reg) (n : Nibble) : Statement (.drw x y n) := inRow_encXYN 0xD x y n
theorem skp (x : Reg) : Statement (.skp x) := inRow_encXSS 0xE x 0x9E
theorem sknp (x : Reg) : Statement (.sknp x) := inRow_encXSS 0xE x 0xA1
theorem ldVxDT (x : Reg) : Statement (.ldVxDT x) := inRow_encXSS 0xF x 0x07
theorem ldVxK (x : Reg) : Statement (.ldVxK x) := inRow_encXSS 0xF x 0x0A
theorem ldDTVx (x : Reg) : Statement (.ldDTVx x) := inRow_encXSS 0xF x 0x15
theorem ldSTVx (x : Reg) : Statement (.ldSTVx x) := inRow_encXSS 0xF x 0x18
theorem addI (x : Reg) : Statement (.addI x) := inRow_encXSS 0xF x 0x1E
theorem ldF (x : Reg) : Statement (.ldF x) := inRow_encXSS 0xF x 0x29
theorem ldB (x : Reg) : Statement (.ldB x) := inRow_encXSS 0xF x 0x33
theorem storeRegs (x : Reg) : Statement (.storeRegs x) := inRow_encXSS 0xF x 0x55
theorem loadRegs (x : Reg) : Statement (.loadRegs x) := inRow_encXSS 0xF x 0x65

end Sys2Proof.Laws.EncodeInRow
end

