-- ==== Sys2Proof/Laws/Step.lean ====
section
/-! SUPPORT. What a step can do, said once (spec 48_cycle_tick_host.md R221 to R224): the inversion of the cycle
and of the step, and what follows a cycle. -/

namespace Sys2Proof.Machine

/-- A cycle that answers next ran the decoded instruction or raised `UnknownOpcode` (R221). -/
theorem State.cycle_cases (s t : State) (h : s.cycle = .next t) :
    (∃ i, decode s.fetch = .ok i ∧ exec i s = .next t) ∨
    (∃ r, decode s.fetch = .error r ∧ t = s.raise (.unknownOpcode s.fetch)) := by
  unfold State.cycle at h
  split at h
  case h_1 i hd => exact .inl ⟨i, hd, h⟩
  case h_2 r hd => exact .inr ⟨r, hd, by injection h with h; exact h.symm⟩

/-- A cycle on a word that decodes is the meaning of its instruction. -/
theorem State.cycle_decoded (s : State) (i : Instr) (h : decode s.fetch = .ok i) : s.cycle = exec i s := by
  simp [State.cycle, h]

/-- A cycle on a word of no row raises. -/
theorem State.cycle_unknown (s : State) (r : Reject) (h : decode s.fetch = .error r) :
    s.cycle = .next (s.raise (.unknownOpcode s.fetch)) := by
  simp [State.cycle, h]

/-- Everything a step that answers next did: a machine not stopped ran one cycle, and what follows a cycle. -/
theorem State.stepWith_next (n : Nat) (s t : State) :
    s.stepWith n = .next t ↔ s.fault = none ∧ ∃ u, s.cycle = .next u ∧ t = u.afterCycle n := by
  unfold State.stepWith
  cases hf : s.fault with
  | some f => simp
  | none =>
    cases hc : s.cycle with
    | next u => simp [eq_comm]
    | fault f => simp
    | refused r => simp

/-- A stopped machine answers its recorded fault (R223). -/
theorem State.stepWith_stopped (n : Nat) (s : State) (f : Fault) (h : s.fault = some f) :
    s.stepWith n = .fault f := by
  simp [State.stepWith, h]

/-- What follows a cycle touches only the count of cycles and the timers. -/
theorem State.afterCycle_same (n : Nat) (s : State) :
    { s.afterCycle n with cycles := s.cycles, dt := s.dt, st := s.st } = s := by
  unfold State.afterCycle
  split <;> rfl

/-- After a raise nothing follows (R222, R224). -/
theorem State.afterCycle_raised (n : Nat) (s : State) (h : s.fault ≠ none) : s.afterCycle n = s := by
  unfold State.afterCycle
  rw [if_pos (Option.isSome_iff_ne_none.mpr h)]

/-- After a cycle that raised nothing, the count and, at the end of a tick, the timers (R224). -/
theorem State.afterCycle_running (n : Nat) (s : State) (h : s.fault = none) :
    s.afterCycle n = s.countCycle.countTimers (decide ((s.cycles + 1) % n = 0)) := by
  unfold State.afterCycle
  rw [if_neg (by simp [h])]
  rfl

/-- The countdown of one timer: at the end of a tick minus 1 with floor 0, else nothing (R224). -/
theorem countDown_toNat (due : Bool) (t : Byte) :
    (countDown due t).toNat = if due then t.toNat - 1 else t.toNat := by
  unfold countDown
  by_cases h : t = 0
  · subst h; cases due <;> rfl
  · have ht : t.toNat ≠ 0 := fun e => h (BitVec.eq_of_toNat_eq e)
    have hlt := t.isLt
    rw [if_neg h]
    cases due
    · simp
    · simp only [if_true, BitVec.toNat_sub, BitVec.ofNat_eq_ofNat, BitVec.toNat_ofNat]
      omega

end Sys2Proof.Machine
end

