-- ==== Sys2Proof/Machine/Assembly.lean ====
section
/-! DEFINITION. The assembler spelling of an instruction (spec 30_encoding.md R110, R95): mnemonic, then operands
separated by a comma and a space, registers `V0` to `VF`, immediates in hexadecimal. It is notation: nothing
the machine does depends on it (92_eei_decisions.md D30). -/

namespace Sys2Proof.Machine

/-- One upper-case hexadecimal digit. -/
def hexDigit (d : Nibble) : List Char := ["0123456789ABCDEF".toList.getD d.toNat '0']

/-- `Vx` (R110). -/
def asmReg (x : Reg) : List Char := 'V' :: hexDigit x

/-- `nnn` as three hexadecimal digits after `0x` (R110). -/
def asmAddr (nnn : Addr12) : List Char :=
  "0x".toList ++ hexDigit (nnn.extractLsb' 8 4) ++ hexDigit (nnn.extractLsb' 4 4) ++
    hexDigit (nnn.extractLsb' 0 4)

/-- `nn` as two hexadecimal digits after `0x` (R110). -/
def asmByte (nn : Byte) : List Char :=
  "0x".toList ++ hexDigit (nn.extractLsb' 4 4) ++ hexDigit (nn.extractLsb' 0 4)

/-- `n` as one hexadecimal digit after `0x` (R110). -/
def asmNibble (n : Nibble) : List Char := "0x".toList ++ hexDigit n

/-- A mnemonic with no operand, one operand, two operands. -/
def asm0 (m : String) : List Char := m.toList
@[inherit_doc asm0] def asm1 (m : String) (a : List Char) : List Char := m.toList ++ ' ' :: a
@[inherit_doc asm0] def asm2 (m : String) (a b : List Char) : List Char :=
  asm1 m (a ++ ", ".toList ++ b)

/-- The line of assembler that stands for an instruction (R95, R110). Shifts are written with one operand. -/
def assembly : Instr → List Char
  | .cls => asm0 "CLS"
  | .ret => asm0 "RET"
  | .sys nnn => asm1 "SYS" (asmAddr nnn)
  | .jp nnn => asm1 "JP" (asmAddr nnn)
  | .call nnn => asm1 "CALL" (asmAddr nnn)
  | .seImm x nn => asm2 "SE" (asmReg x) (asmByte nn)
  | .sneImm x nn => asm2 "SNE" (asmReg x) (asmByte nn)
  | .seReg x y => asm2 "SE" (asmReg x) (asmReg y)
  | .ldImm x nn => asm2 "LD" (asmReg x) (asmByte nn)
  | .addImm x nn => asm2 "ADD" (asmReg x) (asmByte nn)
  | .ldReg x y => asm2 "LD" (asmReg x) (asmReg y)
  | .orReg x y => asm2 "OR" (asmReg x) (asmReg y)
  | .andReg x y => asm2 "AND" (asmReg x) (asmReg y)
  | .xorReg x y => asm2 "XOR" (asmReg x) (asmReg y)
  | .addReg x y => asm2 "ADD" (asmReg x) (asmReg y)
  | .subReg x y => asm2 "SUB" (asmReg x) (asmReg y)
  | .shr x _ => asm1 "SHR" (asmReg x)
  | .subn x y => asm2 "SUBN" (asmReg x) (asmReg y)
  | .shl x _ => asm1 "SHL" (asmReg x)
  | .sneReg x y => asm2 "SNE" (asmReg x) (asmReg y)
  | .ldI nnn => asm2 "LD" ['I'] (asmAddr nnn)
  | .jpV0 nnn => asm2 "JP" (asmReg 0) (asmAddr nnn)
  | .rnd x nn => asm2 "RND" (asmReg x) (asmByte nn)
  | .drw x y n => asm2 "DRW" (asmReg x) (asmReg y ++ ", ".toList ++ asmNibble n)
  | .skp x => asm1 "SKP" (asmReg x)
  | .sknp x => asm1 "SKNP" (asmReg x)
  | .ldVxDT x => asm2 "LD" (asmReg x) "DT".toList
  | .ldVxK x => asm2 "LD" (asmReg x) ['K']
  | .ldDTVx x => asm2 "LD" "DT".toList (asmReg x)
  | .ldSTVx x => asm2 "LD" "ST".toList (asmReg x)
  | .addI x => asm2 "ADD" ['I'] (asmReg x)
  | .ldF x => asm2 "LD" ['F'] (asmReg x)
  | .ldB x => asm2 "LD" ['B'] (asmReg x)
  | .storeRegs x => asm2 "LD" "[I]".toList (asmReg x)
  | .loadRegs x => asm2 "LD" (asmReg x) "[I]".toList

end Sys2Proof.Machine
end

