-- ==== Sys2Proof/Tests/Slice0.lean ====
section
/-! SUPPORT. Tests: the smoke test of WellFormed, every constructor's decoding, one step of each instruction, the
tick and the transactions, and a witness for the hypotheses of every statement. Expected values are those of spec/
(95_test_vectors.md parts 1 and 2 and the examples of the rules), never the model's own answers. -/

namespace Sys2Proof.Tests

open Sys2Proof Sys2Proof.Machine

/-! ## Helpers -/

/-- The next state of an outcome, if it is one. -/
def nextOf (o : Host.Outcome State Fault Refusal) : Option State :=
  match o with
  | .next t => some t
  | .fault _ => none
  | .refused _ => none

/-- The state after one instruction cycle on the opcode `op` placed at `pc`; the state itself if none follows. -/
def run (op : Nat) (s : State) : State := ((nextOf (s.withFetchWord 16 op).cycle).getD s)

/-- Reset with registers written. -/
def regs (l : List (Reg × Byte)) : State := l.foldl (fun s p => s.setReg p.1 p.2) State.reset

/-- A state with bytes written from an address on. -/
def bytes (s : State) (a : Nat) : List Byte → State
  | [] => s
  | b :: rest => bytes (s.writeByte a b) (a + 1) rest

/-- The state after one `TICK` of `n` cycles. -/
def tick (n : Nat) (s : State) : State := (nextOf (s.tickWith n)).getD s

/-- The accepted instruction of a decoding. -/
def okOf (e : Except Reject Instr) : Option Instr := e.toOption

/-- The reason of a rejection. -/
def errOf (e : Except Reject Instr) : Option Reject :=
  match e with
  | .ok _ => none
  | .error r => some r

/-! ## WellFormed smoke (41_control_flow.md R150) -/

theorem test_wf_refuses_sys_of_cls : (Instr.sys 0x0E0).wf = false := by decide
theorem test_wf_refuses_sys_of_ret : (Instr.sys 0x0EE).wf = false := by decide
theorem test_wf_accepts_sys_zero : (Instr.sys 0x000).wf = true := by decide

/-! ## Decoding (95_test_vectors.md 2.1) -/

theorem test_decode_system : okOf (decode 0x00E0) = some .cls ∧ okOf (decode 0x00EE) = some .ret ∧
    okOf (decode 0x0000) = some (.sys 0x000) ∧ okOf (decode 0x00E1) = some (.sys 0x0E1) ∧
    okOf (decode 0x0123) = some (.sys 0x123) := by decide

theorem test_decode_jumps : okOf (decode 0x1ABC) = some (.jp 0xABC) ∧
    okOf (decode 0x2204) = some (.call 0x204) ∧ okOf (decode 0xB300) = some (.jpV0 0x300) ∧
    okOf (decode 0xA2F0) = some (.ldI 0x2F0) := by decide

theorem test_decode_skips : okOf (decode 0x3A7F) = some (.seImm 10 0x7F) ∧
    okOf (decode 0x4B00) = some (.sneImm 11 0x00) ∧ okOf (decode 0x5AB0) = some (.seReg 10 11) ∧
    okOf (decode 0x9AB0) = some (.sneReg 10 11) := by decide

theorem test_decode_immediates : okOf (decode 0x6F01) = some (.ldImm 15 0x01) ∧
    okOf (decode 0x7E80) = some (.addImm 14 0x80) ∧ okOf (decode 0xC30F) = some (.rnd 3 0x0F) := by decide

theorem test_decode_group8 : okOf (decode 0x8120) = some (.ldReg 1 2) ∧
    okOf (decode 0x8121) = some (.orReg 1 2) ∧ okOf (decode 0x8122) = some (.andReg 1 2) ∧
    okOf (decode 0x8123) = some (.xorReg 1 2) ∧ okOf (decode 0x8AB4) = some (.addReg 10 11) ∧
    okOf (decode 0x8125) = some (.subReg 1 2) ∧ okOf (decode 0x8AB6) = some (.shr 10 11) ∧
    okOf (decode 0x8127) = some (.subn 1 2) ∧ okOf (decode 0x8ABE) = some (.shl 10 11) := by decide

theorem test_decode_draw_and_keys : okOf (decode 0xD125) = some (.drw 1 2 5) ∧
    okOf (decode 0xD120) = some (.drw 1 2 0) ∧ okOf (decode 0xE19E) = some (.skp 1) ∧
    okOf (decode 0xE1A1) = some (.sknp 1) := by decide

theorem test_decode_groupF : okOf (decode 0xF007) = some (.ldVxDT 0) ∧
    okOf (decode 0xF10A) = some (.ldVxK 1) ∧ okOf (decode 0xF215) = some (.ldDTVx 2) ∧
    okOf (decode 0xF318) = some (.ldSTVx 3) ∧ okOf (decode 0xF41E) = some (.addI 4) ∧
    okOf (decode 0xF529) = some (.ldF 5) ∧ okOf (decode 0xF633) = some (.ldB 6) ∧
    okOf (decode 0xF755) = some (.storeRegs 7) ∧ okOf (decode 0xF865) = some (.loadRegs 8) := by decide

theorem test_decode_illegal : errOf (decode 0x5AB1) = some .group5 ∧ errOf (decode 0x8AB8) = some .group8 ∧
    errOf (decode 0x8ABF) = some .group8 ∧ errOf (decode 0x9AB5) = some .group9 ∧
    errOf (decode 0xE19F) = some .groupE ∧ errOf (decode 0xE000) = some .groupE ∧
    errOf (decode 0xF090) = some .groupF ∧ errOf (decode 0xF075) = some .groupF ∧
    errOf (decode 0xFFFF) = some .groupF := by decide

theorem test_decode_truncated : decodeBytes [0x12] = .error .truncated := rfl

/-- 20_memory.md R63: `12 34` is `JP 0x234`, not `3412`. -/
theorem test_decode_bytes_big_endian : decodeBytes [0x12, 0x34, 0x56] = .ok (.jp 0x234, [0x56]) := rfl

theorem test_encode_words : encode (.seImm 10 0x7F) = 0x3A7F ∧ encode (.drw 1 2 5) = 0xD125 ∧
    encode (.shl 10 11) = 0x8ABE ∧ encode (.loadRegs 8) = 0xF865 := by decide

/-- 30_encoding.md R110: the assembler spelling. -/
theorem test_assembly : assembly (.drw 1 2 5) = "DRW V1, V2, 0x5".toList ∧
    assembly (.seImm 10 0x7F) = "SE VA, 0x7F".toList ∧ assembly (.shr 10 11) = "SHR VA".toList ∧
    assembly (.storeRegs 7) = "LD [I], V7".toList := by decide

/-! ## Fetch (95_test_vectors.md 2.1, fetch vectors) -/

theorem test_fetch_odd_pc : (bytes (State.reset.setPc 0x201) 0x201 [0x61, 0x77]).fetch = 0x6177 := by decide

/-- `pc = 0x0FFF`: the low byte is the first font byte, `mem[0x000] = F0`. -/
theorem test_fetch_wraps : (bytes (State.reset.setPc 0xFFF) 0xFFF [0x6A]).fetch = 0x6AF0 := by decide

/-! ## Arithmetic and logic (95_test_vectors.md 2.2) -/

theorem test_ldImm : (run 0x6A2C State.reset).reg 10 = 0x2C ∧ (run 0x6A2C State.reset).pc = 0x202 := by decide
theorem test_addImm_wraps_without_flag : (run 0x7101 (regs [(1, 0xFF)])).reg 1 = 0 ∧
    (run 0x7101 (regs [(1, 0xFF)])).reg 15 = 0 := by decide
theorem test_ldReg : (run 0x8120 (regs [(1, 0x11), (2, 0x22)])).reg 1 = 0x22 := by decide
theorem test_orReg : (run 0x8121 (regs [(1, 0xF0), (2, 0x0F), (15, 0xAA)])).reg 1 = 0xFF ∧
    (run 0x8121 (regs [(1, 0xF0), (2, 0x0F), (15, 0xAA)])).reg 15 = 0xAA := by decide
theorem test_andReg : (run 0x8122 (regs [(1, 0xF0), (2, 0x3C)])).reg 1 = 0x30 := by decide
theorem test_xorReg : (run 0x8123 (regs [(1, 0xF0), (2, 0x3C)])).reg 1 = 0xCC := by decide
theorem test_addReg_carries : (run 0x8124 (regs [(1, 0xC8), (2, 0x64)])).reg 1 = 0x2C ∧
    (run 0x8124 (regs [(1, 0xC8), (2, 0x64)])).reg 15 = 1 := by decide
theorem test_addReg_into_vf : (run 0x8F14 (regs [(15, 0x05), (1, 0x03)])).reg 15 = 0 := by decide
theorem test_subReg_borrows : (run 0x8125 (regs [(1, 0x05), (2, 0x07)])).reg 1 = 0xFE ∧
    (run 0x8125 (regs [(1, 0x05), (2, 0x07)])).reg 15 = 0 := by decide
theorem test_subReg_equal : (run 0x8125 (regs [(1, 0x10), (2, 0x10)])).reg 15 = 1 := by decide
theorem test_subn : (run 0x8127 (regs [(1, 0x05), (2, 0x07)])).reg 1 = 0x02 ∧
    (run 0x8127 (regs [(1, 0x05), (2, 0x07)])).reg 15 = 1 := by decide
theorem test_subn_borrows : (run 0x8127 (regs [(1, 0x11), (2, 0x10)])).reg 1 = 0xFF := by decide
theorem test_shr_ignores_vy : (run 0x8426 (regs [(4, 0x9B), (2, 0xFF)])).reg 4 = 0x4D ∧
    (run 0x8426 (regs [(4, 0x9B), (2, 0xFF)])).reg 15 = 1 := by decide
theorem test_shr_of_vf : (run 0x8F06 (regs [(15, 0x02)])).reg 15 = 0 := by decide
theorem test_shl : (run 0x840E (regs [(4, 0x9B)])).reg 4 = 0x36 ∧
    (run 0x840E (regs [(4, 0x9B)])).reg 15 = 1 := by decide
theorem test_shl_of_vf : (run 0x8F0E (regs [(15, 0x7F)])).reg 15 = 0 := by decide
/-- The draw is free; under the mask 0 every draw gives 0. -/
theorem test_rnd_mask_zero : exec (.rnd 3 0x00) State.reset =
    .next { State.reset with pc := 0x202, draws := 1 } := by
  simp only [exec, execRnd, State.draw, BitVec.and_zero, BitVec.ofNat_eq_ofNat]
  rfl

/-! ## Control flow (95_test_vectors.md 2.3) -/

theorem test_sys_raises : (run 0x0123 State.reset).fault = some (.unknownOpcode 0x0123) ∧
    (run 0x0123 State.reset).pc = 0x200 := by decide
theorem test_jp : (run 0x1ABC State.reset).pc = 0xABC := by decide
theorem test_jpV0_beyond_memory : (run 0xBFFF (regs [(0, 0xFF)])).pc = 0x10FE := by decide
theorem test_jpV0_not_vx : (run 0xB300 (regs [(3, 0x55)])).pc = 0x300 := by decide
theorem test_call : (run 0x2ABC State.reset).pc = 0xABC ∧ (run 0x2ABC State.reset).sp = 1 ∧
    (run 0x2ABC State.reset).stackTop = 0x202 := by decide
theorem test_call_full : (run 0x2ABC { State.reset with sp := 16 }).fault = some .stackOverflow ∧
    (run 0x2ABC { State.reset with sp := 16 }).pc = 0x200 := by decide
theorem test_ret : (run 0x00EE (State.reset.push 0xABC)).pc = 0xABC ∧
    (run 0x00EE (State.reset.push 0xABC)).sp = 0 := by decide
theorem test_ret_empty : (run 0x00EE State.reset).fault = some .stackUnderflow ∧
    (run 0x00EE State.reset).pc = 0x200 := by decide
theorem test_seImm : (run 0x3142 (regs [(1, 0x42)])).pc = 0x204 ∧
    (run 0x3142 (regs [(1, 0x43)])).pc = 0x202 := by decide
theorem test_seImm_wraps : (run 0x3000 (State.reset.setPc 0xFFFE)).pc = 0x0002 := by decide
theorem test_sneImm : (run 0x4142 (regs [(1, 0x42)])).pc = 0x202 ∧
    (run 0x4142 (regs [(1, 0x43)])).pc = 0x204 := by decide
theorem test_seReg : (run 0x5120 (regs [(1, 0x07), (2, 0x07)])).pc = 0x204 ∧
    (run 0x5120 (regs [(1, 0x07), (2, 0x08)])).pc = 0x202 := by decide
theorem test_sneReg : (run 0x9120 (regs [(1, 0x07), (2, 0x07)])).pc = 0x202 ∧
    (run 0x9120 (regs [(1, 0x07), (2, 0x08)])).pc = 0x204 := by decide
theorem test_strict_decode_raises : (run 0x5121 State.reset).fault = some (.unknownOpcode 0x5121) := by decide

/-! ## Index register and memory (95_test_vectors.md 2.4) -/

theorem test_ldI : (run 0xAFFF State.reset).i = 0xFFF := by decide
theorem test_addI_no_flag : (run 0xF11E ((regs [(1, 0x01), (15, 0x55)]).setI 0xFFF)).i = 0x1000 ∧
    (run 0xF11E ((regs [(1, 0x01), (15, 0x55)]).setI 0xFFF)).reg 15 = 0x55 := by decide
theorem test_addI_wraps : (run 0xF11E ((regs [(1, 0xFF)]).setI 0xFF80)).i = 0x007F := by decide
theorem test_ldF_low_nibble : (run 0xF129 (regs [(1, 0x1A)])).i = 0x32 := by decide
theorem test_ldF_last : (run 0xF129 (regs [(1, 0xFF)])).i = 0x4B := by decide
theorem test_ldB : let t := run 0xF333 ((regs [(3, 157)]).setI 0x300)
    t.readByte 0x300 = 1 ∧ t.readByte 0x301 = 5 ∧ t.readByte 0x302 = 7 ∧ t.i = 0x300 := by decide
theorem test_ldB_wraps : let t := run 0xF133 ((regs [(1, 234)]).setI 0x1FFF)
    t.readByte 0xFFF = 2 ∧ t.readByte 0x000 = 3 ∧ t.readByte 0x001 = 4 := by decide
theorem test_storeRegs : let t := run 0xF255 (bytes ((regs [(0, 0x11), (1, 0x22), (2, 0x33), (3, 0x44)]).setI 0x400) 0x403 [0xEE])
    t.readByte 0x400 = 0x11 ∧ t.readByte 0x402 = 0x33 ∧ t.readByte 0x403 = 0xEE ∧ t.i = 0x400 := by decide
theorem test_storeRegs_wraps : let t := run 0xF255 ((regs [(0, 0x11), (1, 0x22), (2, 0x33)]).setI 0xFFF)
    t.readByte 0xFFF = 0x11 ∧ t.readByte 0x000 = 0x22 ∧ t.readByte 0x001 = 0x33 := by decide
theorem test_loadRegs : let t := run 0xF265 (bytes ((regs [(3, 0x99)]).setI 0x400) 0x400 [9, 8, 7, 6])
    t.reg 0 = 9 ∧ t.reg 2 = 7 ∧ t.reg 3 = 0x99 ∧ t.i = 0x400 := by decide
theorem test_loadRegs_wraps : let t := run 0xF165 (bytes (State.reset.setI 0xFFF) 0xFFF [0x77])
    t.reg 0 = 0x77 ∧ t.reg 1 = 0xF0 := by decide
/-- 20_memory.md R80: `LD [I], V1` over the next instruction, then that instruction runs. -/
theorem test_store_then_fetch : (run 0xF155 ((regs [(0, 0x6A), (1, 0x55)]).setI 0x202)).fetch = 0x6A55 := by decide

/-! ## Graphics (95_test_vectors.md 2.5) -/

theorem test_cls_keeps_flag : let t := run 0x00E0 ((regs [(15, 1)]).setFb (State.reset.fb.flip 3 5))
    t.fb.pixel 3 5 = false ∧ t.reg 15 = 1 := by decide
theorem test_drw_leftmost_bit : let t := run 0xD011 (bytes ((regs [(0, 0xC5), (1, 0xE3), (15, 1)]).setI 0x300) 0x300 [0x80])
    t.fb.pixel 3 5 = true ∧ t.fb.pixel 3 4 = false ∧ t.reg 15 = 0 := by decide
theorem test_drw_rows_wrap : let t := run 0xD013 (bytes ((regs [(0, 0), (1, 31)]).setI 0x300) 0x300 [0x80, 0x40, 0x20])
    t.fb.pixel 31 0 = true ∧ t.fb.pixel 0 1 = true ∧ t.fb.pixel 1 2 = true := by decide
theorem test_drw_collides : let t := run 0xD211 (bytes (((regs [(2, 2)]).setI 0x300).setFb (State.reset.fb.flip 0 3)) 0x300 [0xF0])
    t.fb.pixel 0 3 = false ∧ t.fb.pixel 0 4 = true ∧ t.reg 15 = 1 := by decide
theorem test_drw_no_rows : (run 0xD010 (regs [(15, 1)])).reg 15 = 0 := by decide

/-! ## Input (95_test_vectors.md 2.6) -/

theorem test_skp_low_nibble : (run 0xE19E ((regs [(1, 0x15)]).setKey 5 true)).pc = 0x204 ∧
    (run 0xE19E (regs [(1, 0x05)])).pc = 0x202 := by decide
theorem test_sknp : (run 0xE1A1 ((regs [(1, 0xF5)]).setKey 5 true)).pc = 0x202 ∧
    (run 0xE1A1 (regs [(1, 0x05)])).pc = 0x204 := by decide
/-- K1: the first execution arms, nothing more. -/
theorem test_ldVxK_arms : (run 0xF10A State.reset).waitKey = true ∧ (run 0xF10A State.reset).pc = 0x200 := by decide
/-- K1: after `KEY_DOWN(11)` the wait completes. -/
theorem test_ldVxK_completes : let t := run 0xF10A ((run 0xF10A State.reset).keyDown 11)
    t.reg 1 = 0x0B ∧ t.pc = 0x202 ∧ t.waitKey = false ∧ t.latchValid = false := by decide
/-- K2: a key already held is not a press. -/
theorem test_held_key_is_no_press :
    ((run 0xF10A (State.reset.keyDown 4)).keyDown 4).latchValid = false := by decide
/-- K3 and K4: a released press stays latched, and the first press wins. -/
theorem test_latch_keeps_first_press :
    ((((run 0xF10A State.reset).keyDown 3).keyUp 3).keyDown 1).latchKey = 3 := by decide
/-- K6: codes out of range. -/
theorem test_key_codes_out_of_range : (State.reset.keyDown 16).keys = State.reset.keys ∧
    (State.reset.keyDown (-1)).keys = State.reset.keys ∧ (State.reset.keyDown 15).key 15 = true := by decide

/-! ## Timers, tick, faults, load (95_test_vectors.md 2.7, 2.8) -/

theorem test_ldVxDT : (run 0xF307 (State.reset.setDT 0x1E)).reg 3 = 0x1E := by decide
theorem test_ldDTVx : (run 0xF115 (regs [(1, 0x07)])).dt = 0x07 := by decide
theorem test_ldSTVx : (run 0xF218 (regs [(2, 0x3C)])).st = 0x3C := by decide
/-- T1: a timer loaded in a tick is decremented at the end of that tick. -/
theorem test_tick_decrements_after_load : (tick 1 ((regs [(1, 0x1E)]).withFetchWord 16 0xF115)).dt = 29 := by decide
/-- S7: floor 0; the two timers are independent. -/
theorem test_tick_floor : (tick 1 ((State.reset.setST 1).withFetchWord 16 0x1200)).dt = 0 ∧
    (tick 1 ((State.reset.setST 1).withFetchWord 16 0x1200)).st = 0 := by decide
/-- F1: a faulting tick stops at once and leaves the timers. -/
theorem test_faulting_tick : let t := tick 4 ((State.reset.setDT 5).withFetchWord 16 0xFFFF)
    t.fault = some (.unknownOpcode 0xFFFF) ∧ t.dt = 5 ∧ t.pc = 0x200 := by decide
/-- F2: power-on faults on its first tick. -/
theorem test_power_on_faults : (tick 1 State.reset).fault = some (.unknownOpcode 0x0000) := by decide
/-- The step counts the timers after the last cycle of a tick only. -/
theorem test_step_counts_timers_at_tick_end :
    ((nextOf (((State.reset.setDT 5).withFetchWord 16 0x1200).stepWith 2)).map State.dt) = some 5 ∧
    ((nextOf (({ State.reset.setDT 5 with cycles := 1 }.withFetchWord 16 0x1200).stepWith 2)).map State.dt) = some 4 := by
  decide
/-- F1: codes of R250. -/
theorem test_fault_codes : faultCode none = 0 ∧ faultCode (some (.unknownOpcode 0xFFFF)) = 1 ∧
    faultCode (some .stackOverflow) = 2 ∧ faultCode (some .stackUnderflow) = 3 := by decide
/-- R71: font, ROM, zeros. -/
theorem test_load_image : let t := (State.reset.load [0xAA, 0x00, 0xBB]).1
    t.readByte 0x04F = 0x80 ∧ t.readByte 0x050 = 0 ∧ t.readByte 0x200 = 0xAA ∧ t.readByte 0x202 = 0xBB ∧
    t.readByte 0x203 = 0 ∧ t.fault = none := by decide
/-- K8: a load abandons a wait and forgets held keys. -/
theorem test_load_abandons_wait : let t := (((run 0xF10A State.reset).keyDown 2).load []).1
    t.waitKey = false ∧ t.latchValid = false ∧ t.key 2 = false := by decide
/-- F1: `LOAD` of 3585 bytes is refused and changes nothing. -/
theorem test_load_too_long : ((State.reset.raise .stackOverflow).load (List.replicate 3585 0)) =
    (State.reset.raise .stackOverflow, .romTooLarge) := by
  have h : romFits (List.replicate 3585 0) = false := by
    simp only [romFits, List.length_replicate]; decide
  simp only [State.load, h]
  rfl
/-- R237: a jump to itself spins; power-on does not. -/
theorem test_spinning : (State.reset.withFetchWord 16 0x1200).isSpinning = true ∧
    State.reset.isSpinning = false ∧ State.reset.isRunning = true := by decide
/-- The table word of the host: row `LD Vx, nn`. -/
theorem test_decodeTableWord : decodeTableWord 16 0x6A2C = some (.ldImm 10 0x2C) ∧
    decodeTableWord 16 0xFFFF = none := by decide

/-! ## Witnesses: concrete states and operands that meet the hypotheses of the statements -/

/-- A machine that waits, nothing latched. -/
def waiting : State := (nextOf (exec (.ldVxK 1) (State.reset.withFetchWord 16 0xF10A))).getD State.reset

theorem witness_step_keeps_invariant : State.reset.Inv ∧ (nextOf (step State.reset)).isSome = true := by decide
theorem witness_step_keeps_invariant_waiting : waiting.Inv ∧ waiting.waitKey = true ∧
    (nextOf (step (waiting.keyDown 7))).isSome = true ∧ (waiting.keyDown 7).Inv := by decide
theorem witness_transactions : State.reset.Inv ∧
    State.reset.transactWith 1 .soundActive = .next (State.reset, .sound false) := ⟨by decide, rfl⟩
theorem witness_decode_of_encode : (Instr.sys 0xFFF).wf = true ∧ (Instr.shl 15 15).wf = true ∧
    (Instr.sys 0x0E1).wf = true := by decide
theorem witness_encode_of_decode : okOf (decode 0x8FFE) = some (.shl 15 15) := by decide
theorem witness_rows : okOf (decode 0x00E0) = some .cls ∧
    0x00E0#16 &&& (tableRow (.sys 0)).1 = (tableRow (.sys 0)).2 := by decide
theorem witness_canonical_memories : Memory.wf [(0x000, 1), (0xFFF, 2)] ∧ Memory.wf [] := by decide
theorem witness_store_seen : 1 ≤ (1 : Reg).toNat ∧
    (State.reset.setI 0x1202).i.toNat % 4096 = ((State.reset.setI 0x1202).pc.toNat + 2) % 4096 := by decide
/-- Both clauses of the step statement: `JP` goes on, `SYS` raises. -/
theorem witness_step_runs_decoded :
    (decodeBytes [(State.reset.withFetchWord 16 0x1200).readByte 0x200,
      (State.reset.withFetchWord 16 0x1200).readByte 0x201] = .ok (.jp 0x200, [])) ∧
    ((nextOf (exec (.jp 0x200) (State.reset.withFetchWord 16 0x1200))).map State.fault = some none) ∧
    (decodeBytes [State.reset.readByte 0x200, State.reset.readByte 0x201] = .ok (.sys 0, [])) ∧
    ((nextOf (exec (.sys 0) State.reset)).map State.fault = some (some (.unknownOpcode 0))) := by
  refine ⟨rfl, by decide, rfl, by decide⟩
theorem witness_unknown_word : (State.reset.withFetchWord 16 0xFFFF).fault = none ∧
    errOf (decode (State.reset.withFetchWord 16 0xFFFF).fetch) = some .groupF := by decide
theorem witness_stopped : (State.reset.raise .stackUnderflow).fault = some .stackUnderflow := by decide
/-- Both clauses of the tick statement: a tick that completes, a tick that faults. -/
theorem witness_tick : State.reset.fault = none ∧
    ((nextOf ((State.reset.withFetchWord 16 0x1200).batch 1)).map State.fault = some none) ∧
    ((nextOf (State.reset.batch 1)).map State.fault = some (some (.unknownOpcode 0))) := by decide
theorem witness_tick_is_its_steps : State.reset.fault = none ∧
    State.reset.betweenTicks Config.cyclesPerTick = true ∧
    State.reset.tickWith Config.cyclesPerTick = .next (State.reset.raise (.unknownOpcode 0)) := by
  refine ⟨rfl, ?_, rfl⟩
  simp [State.betweenTicks, State.reset]
theorem witness_spinning : (State.reset.withFetchWord 16 0x1200).fault = none ∧
    (State.reset.withFetchWord 16 0x1200).isSpinning = true := by decide
theorem witness_waiting : waiting.Inv ∧ waiting.waitKey = true ∧ waiting.latchValid = false := by decide
/-- Both boundaries of a `LOAD`: 0 and 3584 bytes fit, 3585 do not. -/
theorem witness_load_lengths : ([] : List Byte).length ≤ 3584 ∧
    (List.replicate 3584 (0xAA : Byte)).length ≤ 3584 ∧
    3584 < (List.replicate 3585 (0xAA : Byte)).length := by
  refine ⟨by decide, ?_, ?_⟩ <;> rw [List.length_replicate]; decide
/-- Both sides of the latch: a fresh press while waiting, a press of a held key. -/
theorem witness_key_down : (waiting.key 7 = false ∧ waiting.waitKey = true ∧ waiting.latchValid = false) ∧
    (waiting.keyDown 7).key 7 = true := by decide
theorem witness_key_up : State.reset.key 15 = false := by decide
theorem witness_key_codes : ((-1 : Int) < 0 ∨ 15 < (-1 : Int)) ∧ ((16 : Int) < 0 ∨ 15 < (16 : Int)) := by decide
/-- The clause `x ≠ 15` and its complement. -/
theorem witness_flag_register : (14 : Reg) ≠ 15 ∧ ¬ (15 : Reg) ≠ 15 := by decide
theorem witness_jump_to_self : State.reset.pc.toNat = (0x200 : Addr12).toNat := by decide
theorem witness_call_room : State.reset.sp.val < 16 ∧ ({ State.reset with sp := 15 } : State).sp.val < 16 := by decide
theorem witness_call_full : ({ State.reset with sp := 16 } : State).fault = none ∧
    ({ State.reset with sp := 16 } : State).sp.val = 16 := by decide
theorem witness_return : State.reset.sp.val = 0 ∧ 0 < (State.reset.push 0x202).sp.val ∧
    0 < ({ State.reset with sp := 16 } : State).sp.val := by decide
theorem witness_return_after_call :
    ((nextOf (exec (.call 0x300) State.reset)).map (fun t => (t.sp.val, t.stack[0]))) = some (1, 0x202) := by decide
/-- A byte outside the three that `FX33` stores, and one outside the one that `FX55` with `x = 0` stores. -/
theorem witness_outside_stored_bytes : (∀ k, k < 3 → 0x303 % 4096 ≠ (State.reset.setI 0x300).dataAddr k % 4096) ∧
    (∀ k, k ≤ (0 : Reg).toNat → 0x301 % 4096 ≠ (State.reset.setI 0x300).dataAddr k % 4096) := by decide
theorem witness_register_range : (0 : Reg).toNat ≤ (0 : Reg).toNat ∧ (15 : Reg).toNat ≤ (15 : Reg).toNat ∧
    (14 : Reg).toNat < (15 : Reg).toNat := by decide
theorem witness_draw_twice : (0 : Reg) ≠ 15 ∧ (1 : Reg) ≠ 15 := by decide
/-- The state of the worked example (43_graphics.md R194). -/
theorem witness_worked_example :
    let s := bytes ((regs [(0, 60)]).setI 0x300) 0x300 [0xFF]
    (s.reg 0 = 60 ∧ s.reg 1 = 0 ∧ s.readByte s.i.toNat = 0xFF) ∧ ∀ py px, s.fb.pixel py px = false := by
  refine ⟨by decide, fun py px => ?_⟩
  exact Framebuffer.pixel_clear py px
theorem witness_key_skips : (5 : Nibble).toNat = ((regs [(1, 0xF5)]).reg 1).toNat % 16 := by decide
/-- The three clauses of `FX0A`. -/
theorem witness_key_wait : State.reset.waitKey = false ∧ (waiting.waitKey = true ∧ waiting.latchValid = false) ∧
    ((waiting.keyDown 0).waitKey = true ∧ (waiting.keyDown 0).latchValid = true) := by decide
theorem witness_fresh_press : State.reset.waitKey = false ∧ State.reset.key 15 = false := by decide
/-- Each kind of raise, and an instruction that raises nothing. -/
theorem witness_raises : ((nextOf (exec (.sys 0) State.reset)).map State.fault = some (some (.unknownOpcode 0))) ∧
    ((nextOf (exec .ret State.reset)).map State.fault = some (some .stackUnderflow)) ∧
    ((nextOf (exec .cls State.reset)).map State.fault = some none) := by decide
/-- Each piece of state is written by some instruction. -/
theorem witness_writers :
    ((nextOf (exec (.ldB 1) ((regs [(1, 1)]).setI 0x300))).map (fun t => t.mem.length) = some 1) ∧
    ((nextOf (exec (.drw 0 0 1) State.reset)).map (fun t => t.fb.pixel 0 0) = some true) ∧
    ((nextOf (exec (.ldDTVx 1) (regs [(1, 1)]))).map State.dt = some 1) ∧
    ((nextOf (exec (.ldSTVx 1) (regs [(1, 1)]))).map State.st = some 1) ∧
    ((nextOf (exec (.ldI 1) State.reset)).map State.i = some 1) := by decide
/-- The stack, its depth, the key-wait unit, the fault register and the count of draws, likewise. -/
theorem witness_writers_of_the_rest :
    ((nextOf (exec (.call 0x300) State.reset)).map (fun t => (t.sp.val, t.stack[0])) = some (1, 0x202)) ∧
    ((nextOf (exec (.ldVxK 1) State.reset)).map State.waitKey = some true) ∧
    ((nextOf (exec .ret State.reset)).map State.fault = some (some .stackUnderflow)) ∧
    ((nextOf (exec (.rnd 1 1) State.reset)).map State.draws = some 1) := by decide
/-- The updates of `pc` in the order of the table of 10_state.md R27, every skip both ways. -/
theorem witness_program_counter :
    let pcAfter := fun i s => (nextOf (exec i s)).map State.pc
    let s := (regs [(1, 0x33), (2, 0x34)]).setKey 3 true
    s.fault = none ∧
    (pcAfter .cls s, pcAfter (.jp 0xFFF) s, pcAfter .ret (s.push 0x206)) = (some 0x202, some 0xFFF, some 0x206) ∧
    (pcAfter (.jpV0 0x300) (s.setReg 0 4), pcAfter (.call 0x20A) s) = (some 0x304, some 0x20A) ∧
    (pcAfter (.seImm 1 0x33) s, pcAfter (.seImm 1 0x34) s) = (some 0x204, some 0x202) ∧
    (pcAfter (.sneImm 1 0x34) s, pcAfter (.sneImm 1 0x33) s) = (some 0x204, some 0x202) ∧
    (pcAfter (.seReg 1 1) s, pcAfter (.seReg 1 2) s) = (some 0x204, some 0x202) ∧
    (pcAfter (.sneReg 1 2) s, pcAfter (.sneReg 1 1) s) = (some 0x204, some 0x202) ∧
    (pcAfter (.skp 1) s, pcAfter (.skp 2) s) = (some 0x204, some 0x202) ∧
    (pcAfter (.sknp 2) s, pcAfter (.sknp 1) s) = (some 0x204, some 0x202) ∧
    (pcAfter (.ldVxK 1) s, pcAfter (.ldVxK 1) (s.setWait true true 3)) = (some 0x200, some 0x202) ∧
    (pcAfter (.sys 0) s, pcAfter .ret s) = (some 0x200, some 0x200) := by decide
theorem witness_register_written : ((nextOf (exec (.ldImm 3 1) State.reset)).map (fun t => t.reg 3)) = some 1 := by decide
/-- Two states that differ in a stale cell. -/
theorem witness_stale_cells : State.reset.SameButStaleCells
    { State.reset with stack := State.reset.stack.set 0 0xFFFF } :=
  ⟨rfl, fun j _ hj => absurd hj (Nat.not_lt_zero j)⟩

end Sys2Proof.Tests
end

section
/-! PROOFS. The memory accesses of 00_scope.md R12: what the reduction of their address and the write leave as they
were. -/

namespace Sys2Proof.Machine

theorem effAddr_mod (a : Nat) : effAddr (a % Config.memSize) = effAddr a := Nat.mod_mod a Config.memSize

/-- A read sees its address only modulo 4096 (20_memory.md R65). -/
theorem State.readByte_mod (s : State) (a : Nat) : s.readByte (a % Config.memSize) = s.readByte a :=
  congrArg s.mem.read (effAddr_mod a)

/-- The frame of `MemWrite`: with its memory put back, the state is the one before the write. -/
theorem State.writeByte_frame (s : State) (a : Nat) (b : Byte) : { s.writeByte a b with mem := s.mem } = s := rfl

/-- Settles O10: read after write, the reduced address, and the frame of a write. -/
theorem readAfterWriteModuloMemorySize : Obligations.ReadAfterWriteModuloMemorySize := fun s a p b =>
  ⟨s.writeByte_readByte a p b, (s.readByte_mod p).symm, s.writeByte_frame a b⟩

end Sys2Proof.Machine
end

section
/-! PROOFS. What each instruction writes: the shapes of the next state, said once for all instructions, and from them
the writers of each piece of state (spec 10_state.md R24 to R35, 20_memory.md R61). -/

namespace Sys2Proof.Machine

/-- The shapes of the state an instruction can answer, each with the instructions that can answer it. The values an
instruction computes are left open; a field the shape does not name is unchanged. -/
inductive Effect (s : State) : Instr → State → Prop
  /-- A raise: the fault register alone. -/
  | raises {i : Instr} (f : Fault) (hi : i = .ret ∨ ∃ nnn, i = .sys nnn ∨ i = .call nnn) :
      Effect s i (s.raise f)
  /-- Jumps, skips, and the instructions whose results go to general registers only. -/
  | registers {i : Instr} (v : Vector Byte 16) (w : Word) : Effect s i { s with v := v, pc := w }
  | draws (x : Reg) (nn b : Byte) : Effect s (.rnd x nn) (s.nextDraw.result x b)
  | calls (nnn : Addr12) (a w : Word) : Effect s (.call nnn) ((s.push a).setPc w)
  | returns (w : Word) : Effect s .ret (s.pop.setPc w)
  | pixels {i : Instr} (fb : Framebuffer) (v : Vector Byte 16) (w : Word)
      (hi : i = .cls ∨ ∃ x y n, i = .drw x y n) : Effect s i { s with fb := fb, v := v, pc := w }
  | index {i : Instr} (a w : Word) (hi : (∃ nnn, i = .ldI nnn) ∨ ∃ x, i = .addI x ∨ i = .ldF x) :
      Effect s i { s with i := a, pc := w }
  /-- A store, which keeps the canonical form. -/
  | memory {i : Instr} (m : Memory) (w : Word) (hi : ∃ x, i = .ldB x ∨ i = .storeRegs x)
      (hm : s.mem.wf → m.wf) : Effect s i { s with mem := m, pc := w }
  | delay (x : Reg) (b : Byte) (w : Word) : Effect s (.ldDTVx x) { s with dt := b, pc := w }
  | sound (x : Reg) (b : Byte) (w : Word) : Effect s (.ldSTVx x) { s with st := b, pc := w }
  | keyWait (x : Reg) (v : Vector Byte 16) (w : Word) (wait valid : Bool) (key : Nibble) :
      Effect s (.ldVxK x) ({ s with v := v, pc := w }.setWait wait valid key)

theorem State.skipIf_effect (s : State) (i : Instr) (c : Bool) : Effect s i (s.skipIf c) := by
  rw [State.skipIf_eq]
  exact .registers s.v _

/-- The shape of a register result, from its frame: with its registers put back, the state is the one before. -/
theorem Effect.registers_of_frame {s u : State} {i : Instr} (hu : { u with v := s.v } = s) :
    Effect s i u.advance := by
  have h : u = { s with v := u.v } := by conv_rhs => rw [← hu]
  rw [h]
  exact .registers _ _

/-- The shape of a store, from its frame: with its memory put back, the state is the one before. -/
theorem Effect.memory_of_frame {s u : State} {i : Instr} (hi : ∃ x, i = .ldB x ∨ i = .storeRegs x)
    (hu : { u with mem := s.mem } = s) (hm : s.mem.wf → u.mem.wf) : Effect s i u.advance := by
  have h : u = { s with mem := u.mem } := by conv_rhs => rw [← hu]
  rw [h]
  exact .memory _ _ hi hm

/-- `MemWrite(I + k, 1, b)` keeps the canonical form. -/
theorem State.writeAtI_wf (s : State) (k : Nat) (b : Byte) (h : s.mem.wf) : (s.writeAtI k b).mem.wf :=
  s.writeByte_wf _ b h

/-- A store leaves all but memory as it was, after stores that did. -/
theorem State.writeAtI_frame {s u : State} (k : Nat) (b : Byte) (hu : { u with mem := s.mem } = s) :
    { u.writeAtI k b with mem := s.mem } = s := hu

theorem exec_ldB_effect (x : Reg) (s : State) : ∃ t, exec (.ldB x) s = .next t ∧ Effect s (.ldB x) t := by
  have hframe := State.writeAtI_frame 2 (bcdOnes (s.reg x))
    (State.writeAtI_frame 1 (bcdTens (s.reg x)) (State.writeAtI_frame (s := s) 0 (bcdHundreds (s.reg x)) rfl))
  exact ⟨_, rfl, .memory_of_frame ⟨x, .inl rfl⟩ hframe fun hm =>
    State.writeAtI_wf _ 2 _ (State.writeAtI_wf _ 1 _ (s.writeAtI_wf 0 _ hm))⟩

/-- `FX0A` before its wait is armed (44_input.md R203). -/
theorem exec_ldVxK_arms (x : Reg) (s : State) (hw : s.waitKey = false) :
    exec (.ldVxK x) s = .next (s.setWait true false 0) := by
  simp [exec, execLdVxK, hw]

/-- `FX0A` while it waits and nothing is latched (44_input.md R203). -/
theorem exec_ldVxK_waits (x : Reg) (s : State) (hw : s.waitKey = true) (hv : s.latchValid = false) :
    exec (.ldVxK x) s = .next s := by
  simp [exec, execLdVxK, hw, hv]

/-- `FX0A` with a latched press (44_input.md R203). -/
theorem exec_ldVxK_completes (x : Reg) (s : State) (hw : s.waitKey = true) (hv : s.latchValid = true) :
    exec (.ldVxK x) s =
      .next (((s.setReg x (s.latchKey.setWidth 8)).setWait false false 0).setPc (s.pc + 2)) := by
  simp [exec, execLdVxK, hw, hv]

theorem exec_ldVxK_effect (x : Reg) (s : State) : ∃ t, exec (.ldVxK x) s = .next t ∧ Effect s (.ldVxK x) t := by
  cases hw : s.waitKey with
  | false => exact ⟨_, exec_ldVxK_arms x s hw, .keyWait x s.v s.pc _ _ _⟩
  | true =>
    cases hv : s.latchValid with
    | false => exact ⟨_, exec_ldVxK_waits x s hw hv, .keyWait x s.v s.pc s.waitKey s.latchValid s.latchKey⟩
    | true => exact ⟨_, exec_ldVxK_completes x s hw hv, .keyWait x _ _ _ _ _⟩

/-- `CALL` with room on the stack (41_control_flow.md R153). -/
theorem exec_call_pushes (nnn : Addr12) (s : State) (h : s.stackFull = false) :
    exec (.call nnn) s = .next ((s.push (s.pc + 2)).setPc (addrImm nnn)) := by
  simp [exec, execCall, h]

/-- `CALL` on a full stack (60_exceptions.md R252). -/
theorem exec_call_raises (nnn : Addr12) (s : State) (h : s.stackFull = true) :
    exec (.call nnn) s = .next (s.raise .stackOverflow) := by
  simp [exec, execCall, h]

/-- `RET` with an entry on the stack (41_control_flow.md R151). -/
theorem exec_ret_pops (s : State) (h : s.stackEmpty = false) :
    exec .ret s = .next (s.pop.setPc s.stackTop) := by
  simp [exec, execRet, h]

/-- `RET` on an empty stack (60_exceptions.md R253). -/
theorem exec_ret_raises (s : State) (h : s.stackEmpty = true) :
    exec .ret s = .next (s.raise .stackUnderflow) := by
  simp [exec, execRet, h]

/-- All an `FX0A` can do: arm the wait, go on waiting, or load the latched key and end the wait. -/
theorem exec_ldVxK_cases {x : Reg} {s t : State} (h : exec (.ldVxK x) s = .next t) :
    (s.waitKey = false ∧ t = s.setWait true false 0) ∨
    (s.waitKey = true ∧ s.latchValid = false ∧ t = s) ∨
    (s.waitKey = true ∧ s.latchValid = true ∧
      t = ((s.setReg x (s.latchKey.setWidth 8)).setWait false false 0).setPc (s.pc + 2)) := by
  cases hw : s.waitKey with
  | false => exact .inl ⟨rfl, Host.Outcome.next.inj (h.symm.trans (exec_ldVxK_arms x s hw))⟩
  | true =>
    cases hv : s.latchValid with
    | false => exact .inr (.inl ⟨rfl, rfl, Host.Outcome.next.inj (h.symm.trans (exec_ldVxK_waits x s hw hv))⟩)
    | true => exact .inr (.inr ⟨rfl, rfl, Host.Outcome.next.inj (h.symm.trans (exec_ldVxK_completes x s hw hv))⟩)

/-- All a `CALL` can do. -/
theorem exec_call_cases {nnn : Addr12} {s t : State} (h : exec (.call nnn) s = .next t) :
    (s.stackFull = true ∧ t = s.raise .stackOverflow) ∨
    (s.stackFull = false ∧ t = (s.push (s.pc + 2)).setPc (addrImm nnn)) := by
  cases hs : s.stackFull with
  | true => exact .inl ⟨rfl, Host.Outcome.next.inj (h.symm.trans (exec_call_raises nnn s hs))⟩
  | false => exact .inr ⟨rfl, Host.Outcome.next.inj (h.symm.trans (exec_call_pushes nnn s hs))⟩

/-- All a `RET` can do. -/
theorem exec_ret_cases {s t : State} (h : exec .ret s = .next t) :
    (s.stackEmpty = true ∧ t = s.raise .stackUnderflow) ∨
    (s.stackEmpty = false ∧ t = s.pop.setPc s.stackTop) := by
  cases hs : s.stackEmpty with
  | true => exact .inl ⟨rfl, Host.Outcome.next.inj (h.symm.trans (exec_ret_raises s hs))⟩
  | false => exact .inr ⟨rfl, Host.Outcome.next.inj (h.symm.trans (exec_ret_pops s hs))⟩

/-- Every instruction answers a next state, of a shape that is its own (60_exceptions.md R256). -/
theorem exec_next_effect (i : Instr) (s : State) : ∃ t, exec i s = .next t ∧ Effect s i t := by
  cases i with
  | cls => exact ⟨_, rfl, .pixels _ s.v _ (.inl rfl)⟩
  | drw x y n => exact ⟨_, rfl, .pixels _ _ _ (.inr ⟨x, y, n, rfl⟩)⟩
  | sys nnn => exact ⟨_, rfl, .raises _ (.inr ⟨nnn, .inl rfl⟩)⟩
  | ret =>
    cases h : s.stackEmpty with
    | true => exact ⟨_, exec_ret_raises s h, .raises _ (.inl rfl)⟩
    | false => exact ⟨_, exec_ret_pops s h, .returns _⟩
  | call nnn =>
    cases h : s.stackFull with
    | true => exact ⟨_, exec_call_raises nnn s h, .raises _ (.inr ⟨nnn, .inr rfl⟩)⟩
    | false => exact ⟨_, exec_call_pushes nnn s h, .calls nnn _ _⟩
  | seImm | sneImm | seReg | sneReg | skp | sknp => exact ⟨_, rfl, s.skipIf_effect _ _⟩
  | jp | jpV0 | ldImm | addImm | ldReg | orReg | andReg | xorReg | addReg | subReg | shr | subn | shl | ldVxDT =>
    exact ⟨_, rfl, .registers _ _⟩
  | rnd x nn => exact ⟨_, rfl, .draws x nn _⟩
  | loadRegs => exact ⟨_, rfl, .registers_of_frame (s.loadUpTo_same _)⟩
  | ldI nnn => exact ⟨_, rfl, .index _ _ (.inl ⟨nnn, rfl⟩)⟩
  | addI x => exact ⟨_, rfl, .index _ _ (.inr ⟨x, .inl rfl⟩)⟩
  | ldF x => exact ⟨_, rfl, .index _ _ (.inr ⟨x, .inr rfl⟩)⟩
  | ldB x => exact exec_ldB_effect x s
  | storeRegs x =>
    exact ⟨_, rfl, .memory_of_frame ⟨x, .inr rfl⟩ (s.storeUpTo_same _) (s.storeUpTo_wf _)⟩
  | ldDTVx x => exact ⟨_, rfl, .delay x _ _⟩
  | ldSTVx x => exact ⟨_, rfl, .sound x _ _⟩
  | ldVxK x => exact exec_ldVxK_effect x s

theorem exec_effect {i : Instr} {s t : State} (h : exec i s = .next t) : Effect s i t := by
  obtain ⟨u, hu, he⟩ := exec_next_effect i s
  obtain rfl := Host.Outcome.next.inj (hu.symm.trans h)
  exact he

/-- Settles O58: each shape changes no piece of state but those its instructions are named for. -/
theorem onlyNamedInstructionsWriteEachState : Obligations.OnlyNamedInstructionsWriteEachState := by
  intro i s t h
  cases exec_effect h with
  | raises f hi => simp [hi]
  | pixels fb v w hi => simp [hi]
  | index a w hi => simp [hi]
  | memory m w hi => simp [hi]
  | registers | draws | calls | returns | delay | sound | keyWait => simp

end Sys2Proof.Machine
end

section
/-! PROOFS. The invariant (spec 10_state.md R33, R52): it holds at reset, and every instruction cycle, step and host
transaction keeps it. -/

namespace Sys2Proof.Machine

/-- Without a wait the invariant asks for an empty latch and a canonical memory. -/
theorem State.inv_of_idle {s : State} (hm : s.mem.wf) (hw : s.waitKey = false) (hv : s.latchValid = false)
    (hk : s.latchKey = 0) : s.Inv :=
  ⟨hm, by simp [hv], by simp [hw], fun _ => hk, by simp [hw]⟩

/-- Without a wait the latch is empty. -/
theorem State.latch_of_idle {s : State} (h : s.Inv) (hw : s.waitKey = false) :
    s.latchValid = false ∧ s.latchKey = 0 := by
  obtain ⟨-, hlatch, -, hkey, -⟩ := h
  have hv : s.latchValid = false := by
    rw [Bool.eq_false_iff]
    intro hv
    simp [hlatch hv] at hw
  exact ⟨hv, hkey hv⟩

theorem State.atKeyWait_iff (s : State) : s.atKeyWait = true ↔ ∃ x, decode s.fetch = .ok (.ldVxK x) := by
  unfold State.atKeyWait
  split
  case h_1 x hd => simp [hd]
  case h_2 hne => simpa using hne

/-- Settles O2: power-on waits for no key, and its memory lists no cell. -/
theorem resetMeetsTheInvariant : Obligations.ResetMeetsTheInvariant :=
  State.inv_of_idle ⟨List.Pairwise.nil, nofun⟩ rfl rfl rfl

theorem exec_mem_wf {i : Instr} {s t : State} (h : exec i s = .next t) (hm : s.mem.wf) : t.mem.wf := by
  cases exec_effect h with
  | memory m w hi hwf => exact hwf hm
  | calls nnn a w => rwa [State.setPc_mem, State.push_mem]
  | raises | registers | draws | returns | pixels | index | delay | sound | keyWait => exact hm

theorem exec_waitUnit_of_not_ldVxK {i : Instr} {s t : State} (hi : ∀ x, i ≠ .ldVxK x) (h : exec i s = .next t) :
    t.waitKey = s.waitKey ∧ t.latchValid = s.latchValid ∧ t.latchKey = s.latchKey := by
  cases exec_effect h with
  | keyWait x => exact absurd rfl (hi x)
  | raises | registers | draws | calls | returns | pixels | index | memory | delay | sound => simp

/-- A waiting machine runs its `FX0A` again: it goes on waiting, or ends the wait and empties the latch. -/
theorem State.cycle_inv_of_waiting {s t : State} (hi : s.Inv) (hw : s.waitKey = true) (h : s.cycle = .next t) :
    t.Inv := by
  obtain ⟨hm, -, -, -, hat⟩ := id hi
  obtain ⟨x, hd⟩ := s.atKeyWait_iff.mp (hat hw)
  rw [s.cycle_decoded _ hd] at h
  obtain ⟨hw', -⟩ | ⟨-, -, rfl⟩ | ⟨-, -, rfl⟩ := exec_ldVxK_cases h
  · simp [hw] at hw'
  · exact hi
  · exact State.inv_of_idle hm rfl rfl rfl

/-- A running machine that waits for nothing begins a wait only at an `FX0A`. -/
theorem State.cycle_inv_of_idle {s t : State} (hf : s.fault = none) (hi : s.Inv) (hw : s.waitKey = false)
    (h : s.cycle = .next t) : t.Inv := by
  have ⟨hm, _⟩ := hi
  obtain ⟨hv, hk⟩ := State.latch_of_idle hi hw
  obtain ⟨i, hd, he⟩ | ⟨r, -, rfl⟩ := s.cycle_cases t h
  · by_cases hx : ∃ x, i = .ldVxK x
    · obtain ⟨x, rfl⟩ := hx
      rw [exec_ldVxK_arms x s hw] at he
      obtain rfl := Host.Outcome.next.inj he
      exact ⟨hm, nofun, fun _ => hf, fun _ => rfl, fun _ => s.atKeyWait_iff.mpr ⟨x, hd⟩⟩
    · obtain ⟨hw', hv', hk'⟩ := exec_waitUnit_of_not_ldVxK (not_exists.mp hx) he
      exact State.inv_of_idle (exec_mem_wf he hm) (hw'.trans hw) (hv'.trans hv) (hk'.trans hk)
  · exact State.inv_of_idle hm hw hv hk

theorem State.cycle_inv {s t : State} (hf : s.fault = none) (hi : s.Inv) (h : s.cycle = .next t) : t.Inv := by
  cases hw : s.waitKey with
  | true => exact State.cycle_inv_of_waiting hi hw h
  | false => exact State.cycle_inv_of_idle hf hi hw h

theorem State.afterCycle_inv {s : State} (n : Nat) (h : s.Inv) : (s.afterCycle n).Inv := by
  by_cases hf : s.fault = none
  · rw [s.afterCycle_running n hf]
    exact h
  · rwa [s.afterCycle_raised n hf]

/-- Settles O3: a step is a cycle and the counting after it, and both keep the invariant. -/
theorem stepKeepsTheInvariant : Obligations.StepKeepsTheInvariant := by
  intro s t hi h
  obtain ⟨hf, u, hc, rfl⟩ := (s.stepWith_next _ t).mp h
  exact State.afterCycle_inv _ (State.cycle_inv hf hi hc)

/-! ## Transactions -/

theorem State.loaded_inv (s : State) (rom : List Byte) (h : romFits rom = true) : (s.loaded rom).Inv := by
  have hlen : rom.length ≤ Config.maxRom := of_decide_eq_true h
  have hfits : Config.progBase + rom.length ≤ Config.memSize := Nat.add_le_of_le_sub' (by decide) hlen
  exact State.inv_of_idle (Memory.wf_ofRom rom Config.progBase hfits) rfl rfl rfl

theorem State.load_inv (s : State) (rom : List Byte) (hi : s.Inv) : (s.load rom).1.Inv := by
  unfold State.load
  split
  case isTrue h => exact s.loaded_inv rom h
  case isFalse => exact hi

/-- One more cycle of a batch: a raise ends it, otherwise it goes on with the cycle counted (48_cycle_tick_host.md
R222). -/
theorem State.batch_succ_cases {k : Nat} {s t : State} (h : s.batch (k + 1) = .next t) :
    ∃ u, s.cycle = .next u ∧ ((u.fault ≠ none ∧ t = u) ∨ (u.fault = none ∧ u.countCycle.batch k = .next t)) := by
  rw [State.batch] at h
  split at h
  case h_1 u hc =>
    refine ⟨u, hc, ?_⟩
    split at h
    case isTrue hf => exact .inl ⟨Option.isSome_iff_ne_none.mp hf, (Host.Outcome.next.inj h).symm⟩
    case isFalse hf => exact .inr ⟨by simpa using hf, h⟩
  all_goals cases h

theorem State.batch_inv (k : Nat) {s t : State} (hf : s.fault = none) (hi : s.Inv) (h : s.batch k = .next t) :
    t.Inv := by
  induction k generalizing s with
  | zero => exact Host.Outcome.next.inj h ▸ hi
  | succ k ih =>
    obtain ⟨u, hc, ⟨-, rfl⟩ | ⟨hu, hb⟩⟩ := State.batch_succ_cases h
    · exact State.cycle_inv hf hi hc
    · have hi' : u.Inv := State.cycle_inv hf hi hc
      exact ih (s := u.countCycle) hu hi' hb

/-- What a `TICK` does: nothing on a stopped machine; else its batch, and both timers down if nothing was raised
(48_cycle_tick_host.md R222 to R224). -/
theorem State.tickWith_cases {n : Nat} {s t : State} (h : s.tickWith n = .next t) :
    (s.fault ≠ none ∧ t = s) ∨
    (s.fault = none ∧ ∃ u, s.batch n = .next u ∧ t = if u.fault.isSome then u else u.countTimers true) := by
  unfold State.tickWith at h
  split at h
  case isTrue hf => exact .inl ⟨Option.isSome_iff_ne_none.mp hf, (Host.Outcome.next.inj h).symm⟩
  case isFalse hf =>
    refine .inr ⟨by simpa using hf, ?_⟩
    split at h
    case h_1 u hb => exact ⟨u, hb, (Host.Outcome.next.inj h).symm⟩
    all_goals cases h

theorem State.tickWith_inv {n : Nat} {s t : State} (hi : s.Inv) (h : s.tickWith n = .next t) : t.Inv := by
  obtain ⟨-, rfl⟩ | ⟨hf, u, hb, rfl⟩ := State.tickWith_cases h
  · exact hi
  · have hu : u.Inv := State.batch_inv n hf hi hb
    split <;> exact hu

/-- A press fills the latch only of a machine that waits (48_cycle_tick_host.md R230). -/
theorem State.pressKey_inv (s : State) (k : Nibble) (hi : s.Inv) : (s.pressKey k).Inv := by
  unfold State.pressKey
  split
  case isFalse => exact hi
  case isTrue hc =>
    obtain ⟨hm, -, hfault, -, hat⟩ := hi
    simp only [Bool.and_eq_true] at hc
    obtain ⟨⟨-, hw⟩, -⟩ := hc
    exact ⟨hm, fun _ => hw, hfault, nofun, hat⟩

theorem State.keyDown_inv (s : State) (code : Int) (hi : s.Inv) : (s.keyDown code).Inv := by
  unfold State.keyDown
  split
  · exact s.pressKey_inv _ hi
  · exact hi

theorem State.keyUp_inv (s : State) (code : Int) (hi : s.Inv) : (s.keyUp code).Inv := by
  unfold State.keyUp
  split <;> exact hi

/-- A `TICK` that is answered is `State.tickWith` answering the same state. -/
theorem State.transactWith_tick {n : Nat} {s t : State} {r : Response}
    (h : s.transactWith n .tick = .next (t, r)) : s.tickWith n = .next t := by
  rw [State.transactWith] at h
  split at h
  case h_1 u hu => rw [hu, (Prod.mk.inj (Host.Outcome.next.inj h)).1]
  all_goals cases h

theorem fst_of_next {p : State × Response} {s : State} {r : Response}
    (h : (.next p : Host.Outcome (State × Response) Fault Refusal) = .next (s, r)) : p.1 = s := by
  rw [Host.Outcome.next.inj h]

/-- Settles O4: one lemma for each transaction. -/
theorem transactionsKeepTheInvariant : Obligations.TransactionsKeepTheInvariant := by
  intro n tr s s' r hi h
  cases tr with
  | tick => exact State.tickWith_inv hi (State.transactWith_tick h)
  | load rom => exact fst_of_next h ▸ s.load_inv rom hi
  | keyDown code => exact fst_of_next h ▸ s.keyDown_inv code hi
  | keyUp code => exact fst_of_next h ▸ s.keyUp_inv code hi
  | fbSnapshot | soundActive => exact fst_of_next h ▸ hi

end Sys2Proof.Machine
end

section
/-! PROOFS. What each instruction does to `pc` (spec 10_state.md R27) and to the general registers (R21). -/

namespace Sys2Proof.Machine

@[simp] theorem addrImm_toNat (nnn : Addr12) : (addrImm nnn).toNat = nnn.toNat :=
  BitVec.toNat_setWidth_of_le (by decide)

/-- The target of `BNNN` needs no reduction: 12 bits and 8 bits sum below 65536 (41_control_flow.md R158). -/
theorem jpV0_target_toNat (nnn : Addr12) (s : State) (r : Reg) :
    (addrImm nnn + s.regWord r).toNat = nnn.toNat + (s.reg r).toNat := by
  have hreg : (s.regWord r).toNat = (s.reg r).toNat := BitVec.toNat_setWidth_of_le (by decide)
  have hn := nnn.isLt
  have hb := (s.reg r).isLt
  rw [BitVec.toNat_add, addrImm_toNat, hreg]
  omega

/-- The low nibble of a register, as a number cut to 4 bits (44_input.md R200). -/
theorem State.regNibble_eq (s : State) (x : Reg) : s.regNibble x = BitVec.ofNat 4 (s.reg x).toNat := by
  apply BitVec.eq_of_toNat_eq
  simp [State.regNibble]

/-- Settles O57: the raises by the state of the stack, the key wait by its three cases, a skip by its condition. -/
theorem programCounterUpdates : Obligations.ProgramCounterUpdates := by
  intro i s t hf h
  cases i with
  | sys nnn =>
    obtain rfl := Host.Outcome.next.inj h
    exact .inl ⟨nofun, rfl⟩
  | call nnn =>
    obtain ⟨-, rfl⟩ | ⟨-, rfl⟩ := exec_call_cases h
    · exact .inl ⟨nofun, rfl⟩
    · exact .inr ⟨by simpa using hf, addrImm_toNat nnn⟩
  | ret =>
    obtain ⟨-, rfl⟩ | ⟨-, rfl⟩ := exec_ret_cases h
    · exact .inl ⟨nofun, rfl⟩
    · exact .inr ⟨hf, rfl⟩
  | jp nnn =>
    obtain rfl := Host.Outcome.next.inj h
    exact .inr ⟨hf, addrImm_toNat nnn⟩
  | jpV0 nnn =>
    obtain rfl := Host.Outcome.next.inj h
    exact .inr ⟨hf, jpV0_target_toNat nnn s 0⟩
  | ldVxK x =>
    obtain ⟨hw, rfl⟩ | ⟨hw, hv, rfl⟩ | ⟨hw, hv, rfl⟩ := exec_ldVxK_cases h
    · exact .inr ⟨hf, by simp [hw]⟩
    · exact .inr ⟨hf, by simp [hv]⟩
    · exact .inr ⟨hf, by simp [hw, hv]⟩
  | seImm | sneImm | seReg | sneReg | skp | sknp =>
    obtain rfl := Host.Outcome.next.inj h
    exact .inr ⟨by simpa using hf, by simp [State.regNibble_eq]⟩
  | loadRegs | storeRegs | ldB =>
    obtain rfl := Host.Outcome.next.inj h
    exact .inr ⟨by simpa using hf, by simp⟩
  | cls | ldImm | addImm | ldReg | orReg | andReg | xorReg | addReg | subReg | shr | subn | shl | rnd | drw | ldI
  | addI | ldF | ldVxDT | ldDTVx | ldSTVx =>
    obtain rfl := Host.Outcome.next.inj h
    exact .inr ⟨hf, rfl⟩

/-- A register write changes no other register. -/
theorem State.eq_of_setReg_changes {s : State} {x r : Reg} {b : Byte} (h : (s.setReg x b).reg r ≠ s.reg r) : r = x := by
  by_contra hr
  exact h (s.setReg_reg_other x r b hr)

/-- A result and a flag change no register but `V[x]` and `V[15]`. -/
theorem State.eq_of_resultFlag_changes {s : State} {x r : Reg} {b : Byte} {f : Bool}
    (h : (s.resultFlag x b f).reg r ≠ s.reg r) : r = x ∨ r = Reg.vf := by
  by_contra hr
  obtain ⟨hx, hvf⟩ := not_or.mp hr
  apply h
  rw [State.resultFlag_eq, State.setPc_reg, State.setReg_reg_other _ _ _ _ hvf, State.setReg_reg_other _ _ _ _ hx]

theorem State.le_of_loadUpTo_changes {s : State} {x r : Reg} (h : (s.loadUpTo (x.toNat + 1)).reg r ≠ s.reg r) :
    r.toNat ≤ x.toNat := by
  rw [State.loadUpTo_reg _ _ x.isLt] at h
  by_contra hr
  exact h (if_neg (by omega))

/-- Settles O59: the instructions of one row of the table of 10_state.md R21 write alike. -/
theorem onlyNamedRegistersAreWritten : Obligations.OnlyNamedRegistersAreWritten := by
  intro i s t r h hne
  cases i with
  | ldImm | addImm | ldReg | orReg | andReg | xorReg | rnd | ldVxDT =>
    obtain rfl := Host.Outcome.next.inj h
    exact beq_iff_eq.mpr (State.eq_of_setReg_changes hne)
  | addReg | subReg | shr | subn | shl =>
    obtain rfl := Host.Outcome.next.inj h
    simpa [writesReg] using State.eq_of_resultFlag_changes hne
  | drw =>
    obtain rfl := Host.Outcome.next.inj h
    exact beq_iff_eq.mpr (State.eq_of_setReg_changes hne)
  | loadRegs =>
    obtain rfl := Host.Outcome.next.inj h
    exact decide_eq_true (State.le_of_loadUpTo_changes hne)
  | ldVxK x =>
    obtain ⟨-, rfl⟩ | ⟨-, -, rfl⟩ | ⟨-, -, rfl⟩ := exec_ldVxK_cases h
    · exact absurd rfl hne
    · exact absurd rfl hne
    · exact beq_iff_eq.mpr (State.eq_of_setReg_changes hne)
  | ret =>
    obtain ⟨-, rfl⟩ | ⟨-, rfl⟩ := exec_ret_cases h <;> exact absurd rfl hne
  | call =>
    obtain ⟨-, rfl⟩ | ⟨-, rfl⟩ := exec_call_cases h <;> simp at hne
  | seImm | sneImm | seReg | sneReg | skp | sknp | storeRegs | ldB =>
    obtain rfl := Host.Outcome.next.inj h
    simp at hne
  | cls | sys | jp | jpV0 | ldI | addI | ldF | ldDTVx | ldSTVx =>
    obtain rfl := Host.Outcome.next.inj h
    exact absurd rfl hne

end Sys2Proof.Machine
end

section
/-! PROOFS. What power-on leaves (spec 10_state.md R50). -/

namespace Sys2Proof.Machine

theorem State.reset_reg (r : Reg) : State.reset.reg r = 0 := Vector.getElem_replicate _

theorem State.reset_key (k : Nibble) : State.reset.key k = false := Vector.getElem_replicate _

/-- Power-on memory is the power-on image: no cell is listed. -/
theorem State.reset_readByte (a : Nat) (h : a < 4096) : State.reset.readByte a = Memory.unlisted a :=
  congrArg Memory.unlisted (Nat.mod_eq_of_lt h)

theorem Memory.unlisted_font (a : Nat) (h : a < 80) : Memory.unlisted a = fontByte a :=
  if_pos ⟨Nat.zero_le a, h.trans_eq (by decide)⟩

theorem Memory.unlisted_above_font (a : Nat) (h : 80 ≤ a) : Memory.unlisted a = 0 :=
  if_neg fun hin => absurd hin.2 (Nat.not_lt.mpr h)

/-- Settles O1: each piece by its own fact, memory by the power-on image. -/
theorem resetStateIsAllZeroButPcAndFont : Obligations.ResetStateIsAllZeroButPcAndFont :=
  ⟨State.reset_reg, rfl, rfl, rfl, fun _ h => Vector.getElem_replicate h, rfl, rfl, State.reset_key,
    Framebuffer.pixel_clear, rfl, rfl, rfl, rfl,
    fun a h => (State.reset_readByte a (by omega)).trans (Memory.unlisted_font a h),
    fun a h hlt => (State.reset_readByte a hlt).trans (Memory.unlisted_above_font a h)⟩

end Sys2Proof.Machine
end

section
/-! PROOFS. Stale stack cells (spec 10_state.md R29; D18): no instruction but `CALL` and `RET` looks at the stack cells,
and these two look at no cell at `sp` or above. -/

namespace Sys2Proof.Machine

/-- The state with other stack cells. -/
def State.withStack (s : State) (k : Vector Word Config.stackDepth) : State := { s with stack := k }

/-- States that only stale cells tell apart are one state with two stacks that agree below `sp`. -/
theorem State.sameButStaleCells_iff (s u : State) :
    s.SameButStaleCells u ↔ ∃ k, u = s.withStack k ∧
      ∀ (j : Nat) (h : j < Config.stackDepth), j < s.sp.val → k[j] = s.stack[j] := by
  constructor
  · rintro ⟨hsame, hcells⟩
    refine ⟨u.stack, ?_, hcells⟩
    rw [State.withStack, ← hsame]
  · rintro ⟨k, rfl, hcells⟩
    exact ⟨rfl, hcells⟩

/-! ## Instructions that see no stack cell -/

theorem State.skipIf_withStack (s : State) (k : Vector Word Config.stackDepth) (c : Bool) :
    (s.withStack k).skipIf c = (s.skipIf c).withStack k := by
  cases c <;> rfl

theorem State.storeUpTo_withStack (s : State) (k : Vector Word Config.stackDepth) (n : Nat) :
    (s.withStack k).storeUpTo n = (s.storeUpTo n).withStack k := by
  induction n with
  | zero => rfl
  | succ n ih => rw [State.storeUpTo_succ, State.storeUpTo_succ, ih]; rfl

theorem State.loadUpTo_withStack (s : State) (k : Vector Word Config.stackDepth) (n : Nat) :
    (s.withStack k).loadUpTo n = (s.loadUpTo n).withStack k := by
  induction n with
  | zero => rfl
  | succ n ih => rw [State.loadUpTo_succ, State.loadUpTo_succ, ih]; rfl

theorem State.drawRows_withStack (s : State) (k : Vector Word Config.stackDepth) (y0 x0 n : Nat) :
    (s.withStack k).drawRows y0 x0 n = s.drawRows y0 x0 n := by
  induction n with
  | zero => rfl
  | succ n ih => rw [State.drawRows_succ, State.drawRows_succ, ih]; rfl

theorem execStoreRegs_withStack (x : Reg) (s : State) (k : Vector Word Config.stackDepth) :
    ∃ t, execStoreRegs x s = .next t ∧ execStoreRegs x (s.withStack k) = .next (t.withStack k) := by
  refine ⟨_, rfl, ?_⟩
  rw [execStoreRegs, State.storeUpTo_withStack]
  rfl

theorem execLoadRegs_withStack (x : Reg) (s : State) (k : Vector Word Config.stackDepth) :
    ∃ t, execLoadRegs x s = .next t ∧ execLoadRegs x (s.withStack k) = .next (t.withStack k) := by
  refine ⟨_, rfl, ?_⟩
  rw [execLoadRegs, State.loadUpTo_withStack]
  rfl

theorem execDrw_withStack (x y : Reg) (n : Nibble) (s : State) (k : Vector Word Config.stackDepth) :
    ∃ t, execDrw x y n s = .next t ∧ execDrw x y n (s.withStack k) = .next (t.withStack k) := by
  refine ⟨_, rfl, ?_⟩
  rw [execDrw, State.drawRows_withStack]
  rfl

theorem exec_ldVxK_withStack (x : Reg) (s : State) (k : Vector Word Config.stackDepth) :
    ∃ t, exec (.ldVxK x) s = .next t ∧ exec (.ldVxK x) (s.withStack k) = .next (t.withStack k) := by
  cases hw : s.waitKey with
  | false => exact ⟨_, exec_ldVxK_arms x s hw, exec_ldVxK_arms x (s.withStack k) hw⟩
  | true =>
    cases hv : s.latchValid with
    | false => exact ⟨_, exec_ldVxK_waits x s hw hv, exec_ldVxK_waits x (s.withStack k) hw hv⟩
    | true => exact ⟨_, exec_ldVxK_completes x s hw hv, exec_ldVxK_completes x (s.withStack k) hw hv⟩

/-- Every instruction but `CALL` and `RET` does the same whatever the stack cells hold, and leaves them. -/
theorem exec_withStack (i : Instr) (s : State) (k : Vector Word Config.stackDepth) (hret : i ≠ .ret)
    (hcall : ∀ nnn, i ≠ .call nnn) :
    ∃ t, exec i s = .next t ∧ exec i (s.withStack k) = .next (t.withStack k) := by
  cases i with
  | ret => exact absurd rfl hret
  | call nnn => exact absurd rfl (hcall nnn)
  | seImm | sneImm | seReg | sneReg | skp | sknp => exact ⟨_, rfl, congrArg _ (s.skipIf_withStack k _)⟩
  | storeRegs x => exact execStoreRegs_withStack x s k
  | loadRegs x => exact execLoadRegs_withStack x s k
  | drw x y n => exact execDrw_withStack x y n s k
  | ldVxK x => exact exec_ldVxK_withStack x s k
  | cls | sys | jp | jpV0 | ldImm | addImm | ldReg | orReg | andReg | xorReg | addReg | subReg | shr | subn | shl
  | rnd | ldI | addI | ldF | ldB | ldVxDT | ldDTVx | ldSTVx => exact ⟨_, rfl, rfl⟩

theorem exec_stack_of_not_call_ret {i : Instr} {s t : State} (hret : i ≠ .ret) (hcall : ∀ nnn, i ≠ .call nnn)
    (h : exec i s = .next t) : t.stack = s.stack ∧ t.sp = s.sp := by
  cases exec_effect h with
  | calls nnn => exact absurd rfl (hcall nnn)
  | returns => exact absurd rfl hret
  | raises | registers | draws | pixels | index | memory | delay | sound | keyWait => exact ⟨rfl, rfl⟩

/-! ## The two instructions that use the stack -/

theorem State.sameButStaleCells_setPc {s u : State} (w : Word) (h : s.SameButStaleCells u) :
    (s.setPc w).SameButStaleCells (u.setPc w) := by
  obtain ⟨k, rfl, hcells⟩ := (s.sameButStaleCells_iff u).mp h
  exact ⟨rfl, hcells⟩

theorem State.sameButStaleCells_raise {s u : State} (f : Fault) (h : s.SameButStaleCells u) :
    (s.raise f).SameButStaleCells (u.raise f) := by
  obtain ⟨k, rfl, hcells⟩ := (s.sameButStaleCells_iff u).mp h
  exact ⟨rfl, hcells⟩

theorem State.push_withStack (s : State) (k : Vector Word Config.stackDepth) (w : Word) (h : s.sp.val < 16) :
    (s.withStack k).push w = (s.push w).withStack (k.set s.sp.val w h) := by
  have hs : s.push w = _ := dif_pos h
  rw [hs]
  exact dif_pos h

/-- The cell pushed is the same, and it is the only cell that comes into use. -/
theorem State.sameButStaleCells_push {s u : State} (w : Word) (h : s.SameButStaleCells u)
    (hroom : s.stackFull = false) : (s.push w).SameButStaleCells (u.push w) := by
  obtain ⟨k, rfl, hcells⟩ := (s.sameButStaleCells_iff u).mp h
  have hsp : s.sp.val < 16 := by
    have hne : s.sp.val ≠ 16 := by simpa [State.stackFull] using hroom
    have hle : s.sp.val < 17 := s.sp.isLt
    omega
  rw [s.push_withStack k w hsp]
  refine ⟨rfl, fun j hj hlt => ?_⟩
  rw [State.push_sp s w hsp] at hlt
  simp only [State.push_stack s w hsp, State.withStack, Vector.getElem_set]
  split
  · rfl
  · exact hcells j hj (by omega)

/-- A popped cell goes out of use; the value popped was in use. -/
theorem State.sameButStaleCells_pop {s u : State} (h : s.SameButStaleCells u) (hentry : s.stackEmpty = false) :
    s.pop.SameButStaleCells u.pop ∧ u.stackTop = s.stackTop := by
  obtain ⟨k, rfl, hcells⟩ := (s.sameButStaleCells_iff u).mp h
  have hsp : s.sp.val ≠ 0 := by simpa [State.stackEmpty] using hentry
  have hle : s.sp.val < 17 := s.sp.isLt
  refine ⟨⟨rfl, fun j hj hlt => hcells j hj (Nat.lt_of_lt_of_le hlt (Nat.sub_le _ 1))⟩, ?_⟩
  exact hcells (s.sp.val - 1) (show s.sp.val - 1 < 16 by omega) (by omega)

theorem exec_call_stale (nnn : Addr12) {s u : State} (h : s.SameButStaleCells u) :
    ∃ t v, exec (.call nnn) s = .next t ∧ exec (.call nnn) u = .next v ∧ t.SameButStaleCells v := by
  have ⟨k, hu, _⟩ := (s.sameButStaleCells_iff u).mp h
  cases hs : s.stackFull with
  | true =>
    exact ⟨_, _, exec_call_raises nnn s hs, exec_call_raises nnn u (hu ▸ hs), State.sameButStaleCells_raise _ h⟩
  | false =>
    have hpc : u.pc = s.pc := hu ▸ rfl
    refine ⟨_, _, exec_call_pushes nnn s hs, exec_call_pushes nnn u (hu ▸ hs), State.sameButStaleCells_setPc _ ?_⟩
    rw [hpc]
    exact State.sameButStaleCells_push _ h hs

theorem exec_ret_stale {s u : State} (h : s.SameButStaleCells u) :
    ∃ t v, exec .ret s = .next t ∧ exec .ret u = .next v ∧ t.SameButStaleCells v := by
  have ⟨k, hu, _⟩ := (s.sameButStaleCells_iff u).mp h
  cases hs : s.stackEmpty with
  | true =>
    exact ⟨_, _, exec_ret_raises s hs, exec_ret_raises u (hu ▸ hs), State.sameButStaleCells_raise _ h⟩
  | false =>
    obtain ⟨hpop, htop⟩ := State.sameButStaleCells_pop h hs
    refine ⟨_, _, exec_ret_pops s hs, exec_ret_pops u (hu ▸ hs), ?_⟩
    rw [htop]
    exact State.sameButStaleCells_setPc _ hpop

/-! ## A cycle and a step -/

theorem exec_stale (i : Instr) {s u : State} (h : s.SameButStaleCells u) :
    ∃ t v, exec i s = .next t ∧ exec i u = .next v ∧ t.SameButStaleCells v := by
  by_cases hret : i = .ret
  · exact hret ▸ exec_ret_stale h
  by_cases hcall : ∃ nnn, i = .call nnn
  · obtain ⟨nnn, rfl⟩ := hcall
    exact exec_call_stale nnn h
  obtain ⟨k, rfl, hcells⟩ := (s.sameButStaleCells_iff u).mp h
  obtain ⟨t, ht, hv⟩ := exec_withStack i s k hret (not_exists.mp hcall)
  obtain ⟨hstack, hsp⟩ := exec_stack_of_not_call_ret hret (not_exists.mp hcall) ht
  refine ⟨t, _, ht, hv, rfl, fun j hj hlt => ?_⟩
  rw [hstack]
  exact hcells j hj (hsp ▸ hlt)

theorem State.cycle_stale {s u : State} (h : s.SameButStaleCells u) :
    ∃ t v, s.cycle = .next t ∧ u.cycle = .next v ∧ t.SameButStaleCells v := by
  have hfetch : u.fetch = s.fetch := by
    obtain ⟨k, rfl, -⟩ := (s.sameButStaleCells_iff u).mp h
    rfl
  cases hd : decode s.fetch with
  | ok i =>
    rw [s.cycle_decoded i hd, u.cycle_decoded i (hfetch ▸ hd)]
    exact exec_stale i h
  | error r =>
    rw [s.cycle_unknown r hd, u.cycle_unknown r (hfetch ▸ hd), hfetch]
    exact ⟨_, _, rfl, rfl, State.sameButStaleCells_raise _ h⟩

theorem State.afterCycle_stale {s u : State} (n : Nat) (h : s.SameButStaleCells u) :
    (s.afterCycle n).SameButStaleCells (u.afterCycle n) := by
  obtain ⟨k, rfl, hcells⟩ := (s.sameButStaleCells_iff u).mp h
  by_cases hf : s.fault = none
  · rw [s.afterCycle_running n hf, (s.withStack k).afterCycle_running n hf]
    exact ⟨rfl, hcells⟩
  · rw [s.afterCycle_raised n hf, (s.withStack k).afterCycle_raised n hf]
    exact h

/-- Settles O60: stopped states hold the same fault; running ones run the same cycle and count it alike. -/
theorem staleStackCellsAreUnobservable : Obligations.StaleStackCellsAreUnobservable := by
  intro s u h
  have hfault : u.fault = s.fault := by
    obtain ⟨k, rfl, -⟩ := (s.sameButStaleCells_iff u).mp h
    rfl
  cases hf : s.fault with
  | some f =>
    rw [step, s.stepWith_stopped _ f hf, u.stepWith_stopped _ f (hfault.trans hf)]
    rfl
  | none =>
    obtain ⟨t, v, ht, hv, htv⟩ := State.cycle_stale h
    rw [step, (s.stepWith_next _ _).mpr ⟨hf, t, ht, rfl⟩, (u.stepWith_next _ _).mpr ⟨hfault.trans hf, v, hv, rfl⟩]
    exact State.afterCycle_stale _ htv

end Sys2Proof.Machine
end

section
/-! PROOFS. A memory in canonical form is determined by its reads: its cells are the addresses that read unlike the
power-on image, each with what it reads (spec 20_memory.md R60). -/

namespace Sys2Proof.Machine

/-- A cell of a memory with rising addresses reads back: no other cell has its address. -/
theorem Memory.read_of_mem (m : Memory) (c : Host.Cell) (hs : m.Pairwise (fun c d => c.1 < d.1)) (hc : c ∈ m) :
    m.read c.1 = c.2 := by
  induction m with
  | nil => exact absurd hc List.not_mem_nil
  | cons d rest ih =>
    obtain ⟨hd, hrest⟩ := List.pairwise_cons.mp hs
    rcases List.mem_cons.mp hc with rfl | hc
    · exact if_pos rfl
    · exact (if_neg (Nat.ne_of_lt (hd c hc))).trans (ih hrest hc)

/-- An address that reads unlike the power-on image is listed. -/
theorem Memory.mem_of_read_ne (m : Memory) (a : Nat) (h : m.read a ≠ Memory.unlisted a) : (a, m.read a) ∈ m := by
  induction m with
  | nil => exact absurd rfl h
  | cons d rest ih =>
    obtain ⟨b, w⟩ := d
    by_cases hb : b = a
    · simp [Memory.read, hb]
    · have hread : Memory.read ((b, w) :: rest) a = Memory.read rest a := if_neg hb
      rw [hread] at h ⊢
      exact List.mem_cons_of_mem _ (ih h)

/-- The cells of a canonical memory, by its reads alone. -/
theorem Memory.mem_iff_read {m : Memory} (hm : m.wf) (c : Host.Cell) :
    c ∈ m ↔ c.1 < Config.memSize ∧ m.read c.1 = c.2 ∧ c.2 ≠ Memory.unlisted c.1 := by
  obtain ⟨hrising, hcells⟩ := hm
  constructor
  · intro hc
    obtain ⟨hlt, hne⟩ := hcells c hc
    exact ⟨hlt, m.read_of_mem c hrising hc, hne⟩
  · rintro ⟨-, hread, hne⟩
    have hc := m.mem_of_read_ne c.1 (hread ▸ hne)
    rwa [hread] at hc

theorem Memory.nodup_of_wf {m : Memory} (hm : m.wf) : m.Nodup :=
  hm.1.imp fun hlt heq => Nat.ne_of_lt hlt (congrArg Prod.fst heq)

/-- Rising addresses leave the cells of a memory one order. -/
theorem Memory.eq_of_mem_iff {m n : Memory} (hm : m.wf) (hn : n.wf) (h : ∀ c, c ∈ m ↔ c ∈ n) : m = n :=
  have hperm : m.Perm n :=
    (List.perm_ext_iff_of_nodup (Memory.nodup_of_wf hm) (Memory.nodup_of_wf hn)).mpr h
  hperm.eq_of_pairwise (fun _ _ _ _ hcd hdc => absurd hcd (Nat.lt_asymm hdc)) hm.1 hn.1

/-- Settles O11: memories that read alike list the same cells. -/
theorem canonicalMemoriesThatReadAlikeAreEqual : Obligations.CanonicalMemoriesThatReadAlikeAreEqual := by
  intro m n hm hn hread
  refine Memory.eq_of_mem_iff hm hn fun c => ?_
  rw [Memory.mem_iff_read hm, Memory.mem_iff_read hn]
  exact and_congr_right fun hlt => by rw [hread c.1 hlt]

end Sys2Proof.Machine
end

section
/-! PROOFS. The byte order of an opcode (spec 20_memory.md R63). -/

namespace Sys2Proof

theorem combine_toNat (hi lo : Byte) : (combine hi lo).toNat = 256 * hi.toNat + lo.toNat := by
  rw [combine, BitVec.toNat_append, ← Nat.shiftLeft_add_eq_or_of_lt lo.isLt, Nat.shiftLeft_eq, Nat.mul_comm]

end Sys2Proof
end

section
/-! PROOFS. The fetch: its two bytes (spec 20_memory.md R63), and a store over them (R80). -/

namespace Sys2Proof.Machine

/-- Settles O12: the weight of the high byte, and the reduced address of each read. -/
theorem fetchIsBigEndian : Obligations.FetchIsBigEndian := by
  intro s
  have hfetch : s.fetch.toNat = 256 * (s.readByte s.pc.toNat).toNat + (s.readByte (s.pc.toNat + 1)).toNat :=
    combine_toNat _ _
  have hlow : (s.readByte (s.pc.toNat + 1)).toNat < 256 := (s.readByte (s.pc.toNat + 1)).isLt
  rw [s.readByte_mod, s.readByte_mod]
  omega

/-- Addresses that agree modulo 4096 read the same byte (20_memory.md R65). -/
theorem State.readByte_congr (s : State) {a p : Nat} (h : a % 4096 = p % 4096) : s.readByte a = s.readByte p :=
  congrArg s.mem.read h

/-- Byte `k` of a dump, read at any address that reduces to where it was stored. -/
theorem State.storeUpTo_readByte_of_mod_eq (s : State) (n k a : Nat) (hn : n ≤ 16) (hk : k < n)
    (ha : a % 4096 = (s.i.toNat + k) % 4096) : (s.storeUpTo n).readByte a = s.reg (BitVec.ofNat 4 k) :=
  ((s.storeUpTo n).readByte_congr ha).trans (s.storeUpTo_readByte_inside n k hn hk)

/-- `FX55` always completes (42_memory_index.md R174). -/
theorem exec_storeRegs (x : Reg) (s : State) :
    exec (.storeRegs x) s = .next ((s.storeUpTo (x.toNat + 1)).setPc (s.pc + 2)) := by
  rw [← s.storeUpTo_pc (x.toNat + 1)]
  rfl

/-- Settles O13: the two bytes the next fetch reads are bytes 0 and 1 of the dump. -/
theorem storeIsSeenByTheNextFetch : Obligations.StoreIsSeenByTheNextFetch := by
  intro x s hx hi
  refine ⟨_, exec_storeRegs x s, ?_⟩
  have hn : x.toNat + 1 ≤ 16 := x.isLt
  have hpc : (s.pc + 2).toNat % 4096 = (s.pc.toNat + 2) % 4096 := by bv_omega
  have hhigh := s.storeUpTo_readByte_of_mod_eq (x.toNat + 1) 0 (s.pc + 2).toNat hn (by omega) (by omega)
  have hlow := s.storeUpTo_readByte_of_mod_eq (x.toNat + 1) 1 ((s.pc + 2).toNat + 1) hn (by omega) (by omega)
  rw [State.fetch, State.setPc_readByte, State.setPc_readByte, State.setPc_pc, hhigh, hlow]
  rfl

end Sys2Proof.Machine
end

section
/-! PROOFS. The fields of an opcode: each format puts them back together, and a mask that covers a field keeps it
(spec 30_encoding.md R91, R92, R94). -/

namespace Sys2Proof

theorem append_fieldX_fieldNN (op : Word) : fieldX op ++ fieldNN op = fieldNNN op :=
  BitVec.extractLsb'_append_extractLsb'_eq_extractLsb' rfl

theorem append_fieldY_fieldN (op : Word) : fieldY op ++ fieldN op = fieldNN op :=
  BitVec.extractLsb'_append_extractLsb'_eq_extractLsb' rfl

theorem encNNN_of_group {op : Word} {g : Nibble} (hg : fieldG op = g) : encNNN g (fieldNNN op) = op :=
  hg ▸ append_parts 4 12 op

theorem encXNN_of_group {op : Word} {g : Nibble} (hg : fieldG op = g) :
    encXNN g (fieldX op) (fieldNN op) = op := by
  rw [encXNN, append_fieldX_fieldNN]
  exact encNNN_of_group hg

theorem encXYN_of_group {op : Word} {g : Nibble} (hg : fieldG op = g) :
    encXYN g (fieldX op) (fieldY op) (fieldN op) = op := by
  rw [encXYN, append_fieldY_fieldN]
  exact encXNN_of_group hg

theorem fieldG_of_mask {op mask m : Word} (hmask : fieldG mask = 0xF#4) (h : op &&& mask = m) :
    fieldG op = fieldG m := by
  have hand : fieldG (op &&& mask) = fieldG op &&& fieldG mask := BitVec.extractLsb'_and
  rw [← h, hand, hmask, and_ones]

theorem fieldN_of_mask {op mask m : Word} (hmask : fieldN mask = 0xF#4) (h : op &&& mask = m) :
    fieldN op = fieldN m := by
  have hand : fieldN (op &&& mask) = fieldN op &&& fieldN mask := BitVec.extractLsb'_and
  rw [← h, hand, hmask, and_ones]

theorem fieldNN_of_mask {op mask m : Word} (hmask : fieldNN mask = 0xFF#8) (h : op &&& mask = m) :
    fieldNN op = fieldNN m := by
  have hand : fieldNN (op &&& mask) = fieldNN op &&& fieldNN mask := BitVec.extractLsb'_and
  have hones : fieldNN op &&& 0xFF#8 = fieldNN op := BitVec.and_allOnes
  rw [← h, hand, hmask, hones]

/-- The group the decoder's last arm is left with. -/
theorem group_eq_F {g : Nibble} (h : g ∉ [0, 1, 2, 3, 4, 5, 6, 7, 8, 9, 0xA, 0xB, 0xC, 0xD, 0xE]) : g = 0xF := by
  decide +revert

end Sys2Proof
end

section
/-! PROOFS. Encoder and decoder are inverse to each other (spec 30_encoding.md R94, R95, R98), format by format and
group by group. -/

namespace Sys2Proof

/-- The decoder finds each operand in the field the instruction's format puts it in. -/
theorem decode_encode (i : Instr) (hwf : i.wf = true) : decode (encode i) = .ok i := by
  cases i with
  | cls | ret => rfl
  | sys nnn =>
    simp only [Instr.wf, Bool.and_eq_true, bne_iff_ne] at hwf
    simp [encode, decode, decodeGroup0, fieldG_encNNN, fieldNNN_encNNN, hwf]
  | jp nnn | call nnn | ldI nnn | jpV0 nnn => simp [encode, decode, fieldG_encNNN, fieldNNN_encNNN]
  | seImm x nn | sneImm x nn | ldImm x nn | addImm x nn | rnd x nn =>
    simp [encode, decode, fieldG_encXNN, fieldX_encXNN, fieldNN_encXNN]
  | seReg x y | sneReg x y | drw x y n =>
    simp [encode, decode, fieldG_encXYN, fieldX_encXYN, fieldY_encXYN, fieldN_encXYN]
  | ldReg x y | orReg x y | andReg x y | xorReg x y | addReg x y | subReg x y | shr x y | subn x y | shl x y =>
    simp [encode, decode, decodeGroup8, fieldG_encXYN, fieldX_encXYN, fieldY_encXYN, fieldN_encXYN]
  | skp x | sknp x => simp [encode, decode, decodeGroupE, fieldG_encXNN, fieldX_encXNN, fieldNN_encXNN]
  | ldVxDT x | ldVxK x | ldDTVx x | ldSTVx x | addI x | ldF x | ldB x | storeRegs x | loadRegs x =>
    simp [encode, decode, decodeGroupF, fieldG_encXNN, fieldX_encXNN, fieldNN_encXNN]

/-- Settles O5: the word by `decode_encode`, the bytes because they combine to the word. -/
theorem decodeOfEncodeIsTheInstruction : Obligations.DecodeOfEncodeIsTheInstruction := by
  intro i hwf
  have hword := decode_encode i hwf
  refine ⟨hword, fun rest => ?_⟩
  simp [encodeBytes, decodeBytes, combine_bytes, hword]

theorem encode_decodeGroup0 (nnn : Addr12) :
    encode (decodeGroup0 nnn) = encNNN 0x0 nnn ∧ (decodeGroup0 nnn).wf = true := by
  unfold decodeGroup0
  split_ifs with hcls hret
  · subst hcls; decide
  · subst hret; decide
  · simp [encode, Instr.wf, hcls, hret]

theorem encode_of_decodeGroup8 {x y : Reg} {n : Nibble} {i : Instr} (h : decodeGroup8 x y n = .ok i) :
    encode i = encXYN 0x8 x y n ∧ i.wf = true := by
  unfold decodeGroup8 at h
  split at h <;> cases h <;> exact ⟨rfl, rfl⟩

theorem encode_of_decodeGroupE {x : Reg} {nn : Byte} {i : Instr} (h : decodeGroupE x nn = .ok i) :
    encode i = encXNN 0xE x nn ∧ i.wf = true := by
  unfold decodeGroupE at h
  split at h <;> cases h <;> exact ⟨rfl, rfl⟩

theorem encode_of_decodeGroupF {x : Reg} {nn : Byte} {i : Instr} (h : decodeGroupF x nn = .ok i) :
    encode i = encXNN 0xF x nn ∧ i.wf = true := by
  unfold decodeGroupF at h
  split at h <;> cases h <;> exact ⟨rfl, rfl⟩

/-- The fields a decoded instruction keeps and the bits its row fixes are all bits of the word. -/
theorem encode_of_decode {op : Word} {i : Instr} (h : decode op = .ok i) : encode i = op ∧ i.wf = true := by
  unfold decode at h
  split at h
  -- group 0
  case h_1 hg =>
    cases h
    obtain ⟨hword, hwf⟩ := encode_decodeGroup0 (fieldNNN op)
    exact ⟨hword.trans (encNNN_of_group hg), hwf⟩
  -- format NNN: groups 1, 2, A, B
  case h_2 hg | h_3 hg | h_11 hg | h_12 hg =>
    cases h
    exact ⟨encNNN_of_group hg, rfl⟩
  -- format XNN: groups 3, 4, 6, 7, C
  case h_4 hg | h_5 hg | h_7 hg | h_8 hg | h_13 hg =>
    cases h
    exact ⟨encXNN_of_group hg, rfl⟩
  -- format XYN: group D
  case h_14 hg =>
    cases h
    exact ⟨encXYN_of_group hg, rfl⟩
  -- format XYS: groups 5 and 9, with their one low nibble, and group 8
  case h_6 hg | h_10 hg =>
    split_ifs at h with hn
    cases h
    have hword := encXYN_of_group hg
    rw [hn] at hword
    exact ⟨hword, rfl⟩
  case h_9 hg =>
    obtain ⟨hword, hwf⟩ := encode_of_decodeGroup8 h
    exact ⟨hword.trans (encXYN_of_group hg), hwf⟩
  -- format XSS: groups E and F
  case h_15 hg =>
    obtain ⟨hword, hwf⟩ := encode_of_decodeGroupE h
    exact ⟨hword.trans (encXNN_of_group hg), hwf⟩
  case h_16 =>
    have hg : fieldG op = 0xF := group_eq_F (by simp_all)
    obtain ⟨hword, hwf⟩ := encode_of_decodeGroupF h
    exact ⟨hword.trans (encXNN_of_group hg), hwf⟩

/-- Settles O6, group by group. -/
theorem encodeOfDecodeIsTheWord : Obligations.EncodeOfDecodeIsTheWord := fun _ _ => encode_of_decode

/-- Settles O9, by running the decoder on each word. -/
theorem wordsOfEachFamilyDecode : Obligations.WordsOfEachFamilyDecode :=
  ⟨rfl, rfl, rfl, rfl, rfl, rfl, rfl, rfl, rfl, rfl, rfl, rfl⟩

end Sys2Proof
end

section
/-! PROOFS. The words no row has (spec 30_encoding.md R96). -/

namespace Sys2Proof

theorem ite_error_iff (p : Prop) [Decidable p] (i : Instr) (q : Reject) :
    (∃ r, (if p then .ok i else .error q : Except Reject Instr) = .error r) ↔ ¬p := by
  split_ifs with hp <;> simp [hp]

theorem decodeGroup8_error_iff (x y : Reg) (n : Nibble) :
    (∃ r, decodeGroup8 x y n = .error r) ↔ n ∈ [8#4, 9#4, 0xA#4, 0xB#4, 0xC#4, 0xD#4, 0xF#4] := by
  unfold decodeGroup8
  split
  case h_10 =>
    simp only [Except.error.injEq, exists_eq', true_iff]
    decide +revert
  all_goals simp

theorem decodeGroupE_error_iff (x : Reg) (nn : Byte) :
    (∃ r, decodeGroupE x nn = .error r) ↔ nn ∉ [0x9E#8, 0xA1#8] := by
  unfold decodeGroupE
  split <;> simp_all

theorem decodeGroupF_error_iff (x : Reg) (nn : Byte) :
    (∃ r, decodeGroupF x nn = .error r) ↔
      nn ∉ [0x07#8, 0x0A#8, 0x15#8, 0x18#8, 0x1E#8, 0x29#8, 0x33#8, 0x55#8, 0x65#8] := by
  unfold decodeGroupF
  split <;> simp_all

/-- Settles O7: the five groups that reject a word, each by its own line of the table; the others reject none. -/
theorem illegalWordsAreTheTable : Obligations.IllegalWordsAreTheTable := by
  intro op
  unfold decode
  split
  -- groups 5 and 9
  case h_6 hg | h_10 hg => simp [hg, ite_error_iff]
  -- groups 8, E, F
  case h_9 hg => simp [hg, decodeGroup8_error_iff]
  case h_15 hg => simp [hg, decodeGroupE_error_iff]
  case h_16 =>
    have hg : fieldG op = 0xF := group_eq_F (by simp_all)
    simp [hg, decodeGroupF_error_iff]
  all_goals simp [*]

end Sys2Proof
end

section
/-! PROOFS. The rows of the opcode table and the words they match (spec 30_encoding.md R94, R95). -/

namespace Sys2Proof

open Laws.EncodeInRow in
/-- The family `EncodeInRow` for all instructions, by format. -/
theorem encode_inRow (i : Instr) : Statement i := by
  cases i with
  | cls => exact cls
  | ret => exact ret
  | sys nnn | jp nnn | call nnn | ldI nnn | jpV0 nnn => exact inRow_encNNN _ nnn
  | seImm x nn | sneImm x nn | ldImm x nn | addImm x nn | rnd x nn => exact inRow_encXNN _ x nn
  | drw x y n => exact inRow_encXYN _ x y n
  | seReg x y | ldReg x y | orReg x y | andReg x y | xorReg x y | addReg x y | subReg x y | shr x y | subn x y
  | shl x y | sneReg x y => exact inRow_encXYS _ x y _
  | skp x | sknp x | ldVxDT x | ldVxK x | ldDTVx x | ldSTVx x | addI x | ldF x | ldB x | storeRegs x
  | loadRegs x => exact inRow_encXSS _ x _

/-- A word of the row of `j` decodes to an instruction of that row, but for the two exact words among those of
`0NNN`: the fields the mask covers are the ones the decoder tests. -/
theorem decode_of_inRow {op : Word} {j : Instr} (h : op &&& (tableRow j).1 = (tableRow j).2) :
    ∃ i, decode op = .ok i ∧
      (tableRow j = tableRow i ∨ ((∃ nnn, j = .sys nnn) ∧ (i = .cls ∨ i = .ret))) := by
  cases j with
  | cls | ret =>
    obtain rfl := BitVec.and_allOnes.symm.trans h
    exact ⟨_, rfl, .inl rfl⟩
  | sys nnn =>
    dsimp only [tableRow] at h
    have hg := fieldG_of_mask rfl h
    refine ⟨decodeGroup0 (fieldNNN op), by rw [decode, hg]; rfl, ?_⟩
    unfold decodeGroup0
    split_ifs <;> simp [tableRow]
  | jp nnn | call nnn | ldI nnn | jpV0 nnn | seImm x nn | sneImm x nn | ldImm x nn | addImm x nn | rnd x nn
  | drw x y n =>
    dsimp only [tableRow] at h
    have hg := fieldG_of_mask rfl h
    rw [decode, hg]
    exact ⟨_, rfl, .inl rfl⟩
  | seReg x y | sneReg x y | ldReg x y | orReg x y | andReg x y | xorReg x y | addReg x y | subReg x y | shr x y
  | subn x y | shl x y =>
    dsimp only [tableRow] at h
    have hg := fieldG_of_mask rfl h
    have hn := fieldN_of_mask rfl h
    rw [decode, hg, hn]
    exact ⟨_, rfl, .inl rfl⟩
  | skp x | sknp x | ldVxDT x | ldVxK x | ldDTVx x | ldSTVx x | addI x | ldF x | ldB x | storeRegs x
  | loadRegs x =>
    dsimp only [tableRow] at h
    have hg := fieldG_of_mask rfl h
    have hnn := fieldNN_of_mask rfl h
    rw [decode, hg, hnn]
    exact ⟨_, rfl, .inl rfl⟩

/-- Settles O8: the word is its instruction's encoding, so it is in that row; a word of another row decodes to an
instruction of that row, and the decoder has one answer. -/
theorem rowsAreDisjointButForThePriority : Obligations.RowsAreDisjointButForThePriority := by
  intro op i hd
  obtain ⟨rfl, -⟩ := encode_of_decode hd
  refine ⟨encode_inRow i, fun j hj => ?_⟩
  obtain ⟨k, hk, hrow⟩ := decode_of_inRow hj
  obtain rfl : i = k := Except.ok.inj (hd.symm.trans hk)
  exact hrow

end Sys2Proof
end

section
/-! PROOFS. The arithmetic, logic and random instructions (spec 40_arithmetic_logic.md R120 to R131, R141): what the two
endings they share leave, with a flag and without, then each instruction's own value and flag. -/

namespace Sys2Proof.Machine

/-! ## The two endings -/

theorem State.result_reg_same (s : State) (x : Reg) (b : Byte) : (s.result x b).reg x = b := by simp

theorem State.result_frame (s : State) (x : Reg) (b : Byte) :
    (∀ r, r ≠ x → (s.result x b).reg r = s.reg r) ∧ (s.result x b).pc = s.pc + 2 ∧
      s.SameButRegsPc (s.result x b) :=
  ⟨fun r hr => s.setReg_reg_other x r b hr, rfl, rfl, fun _ => rfl⟩

/-- The flag is written last, so the result stands in every register but `V[15]` (00_scope.md R14). -/
theorem State.resultFlag_reg_same (s : State) {x : Reg} (b : Byte) (f : Bool) (hx : x ≠ 15) :
    (s.resultFlag x b f).reg x = b :=
  ((s.setReg x b).setReg_reg_other Reg.vf x (flagByte f) hx).trans (s.setReg_reg_same x b)

theorem State.resultFlag_reg_vf (s : State) (x : Reg) (b : Byte) (f : Bool) :
    (s.resultFlag x b f).reg 15 = flagByte f :=
  (s.setReg x b).setReg_reg_same Reg.vf (flagByte f)

theorem State.resultFlag_reg_other (s : State) {x r : Reg} (b : Byte) (f : Bool) (hx : r ≠ x) (hvf : r ≠ 15) :
    (s.resultFlag x b f).reg r = s.reg r := by
  by_contra hne
  exact (State.eq_of_resultFlag_changes hne).elim hx hvf

theorem flagByte_decide (c : Prop) [Decidable c] : flagByte (decide c) = if c then 1 else 0 := by
  simp [flagByte]

/-- All a flag-writing instruction leaves, from its result as the number `n` and its flag as the condition `c`. -/
theorem State.resultFlag_leaves (s : State) (x : Reg) {b : Byte} {f : Bool} {n : Nat} {c : Prop} [Decidable c]
    (hb : b.toNat = n) (hf : f = decide c) :
    (x ≠ 15 → ((s.resultFlag x b f).reg x).toNat = n) ∧
      (s.resultFlag x b f).reg 15 = (if c then 1 else 0) ∧
      (∀ r, r ≠ x → r ≠ 15 → (s.resultFlag x b f).reg r = s.reg r) ∧
      (s.resultFlag x b f).pc = s.pc + 2 ∧ s.SameButRegsPc (s.resultFlag x b f) := by
  refine ⟨fun hx => ?_, ?_, fun r hx hvf => s.resultFlag_reg_other b f hx hvf, rfl, rfl, fun _ => rfl⟩
  · rw [s.resultFlag_reg_same b f hx, hb]
  · rw [State.resultFlag_reg_vf, hf, flagByte_decide]

/-! ## Bytes as numbers -/

/-- The difference of two bytes; 256 is added before the subtraction, which so never goes below 0. -/
theorem byte_sub_toNat (a b : Byte) : (a - b).toNat = (a.toNat + 256 - b.toNat) % 256 := by
  have hb := b.isLt
  rw [BitVec.toNat_sub]
  omega

theorem byte_ushiftRight_one_toNat (a : Byte) : (a >>> 1).toNat = a.toNat / 2 := by
  rw [BitVec.toNat_ushiftRight, Nat.shiftRight_eq_div_pow, Nat.pow_one]

theorem byte_shiftLeft_one_toNat (a : Byte) : (a <<< 1).toNat = 2 * a.toNat % 256 := by
  rw [BitVec.toNat_shiftLeft, Nat.shiftLeft_eq, Nat.pow_one, Nat.mul_comm]

theorem lowBitFlag_eq (a : Byte) : lowBitFlag a = decide (a.toNat % 2 = 1) :=
  Nat.testBit_zero a.toNat

/-- The highest bit of a byte is on from 128 up. -/
theorem highBitFlag_eq (a : Byte) : highBitFlag a = decide (128 ≤ a.toNat) :=
  BitVec.msb_eq_decide a

/-! ## The instructions -/

/-- Settles O28: the result is the sum of two bytes, written without a flag. -/
theorem addImmediateWithoutFlag : Obligations.AddImmediateWithoutFlag := by
  intro x nn s
  refine ⟨_, rfl, ?_, s.result_frame x _⟩
  rw [State.result_reg_same, BitVec.toNat_add]

/-- Settles O29: each bit of the result is the operation on the two old bits. -/
theorem logicOperationsWithoutFlag : Obligations.LogicOperationsWithoutFlag := by
  intro x y s
  refine ⟨⟨_, rfl, fun j _ => ?_, s.result_frame x _⟩, ⟨_, rfl, fun j _ => ?_, s.result_frame x _⟩,
    ⟨_, rfl, fun j _ => ?_, s.result_frame x _⟩⟩
  · rw [State.result_reg_same, BitVec.getLsbD_or]
  · rw [State.result_reg_same, BitVec.getLsbD_and]
  · rw [State.result_reg_same, BitVec.getLsbD_xor]

/-- Settles O30: the carry flag is defined by the sum of the two numbers. -/
theorem addRegistersWithCarry : Obligations.AddRegistersWithCarry := fun x y s =>
  ⟨_, rfl, s.resultFlag_leaves x (BitVec.toNat_add (s.reg x) (s.reg y)) rfl⟩

/-- Settles O31: `SUBN` is `SUB` with the operands exchanged. -/
theorem subtractionsWithNotBorrow : Obligations.SubtractionsWithNotBorrow := fun x y s =>
  ⟨⟨_, rfl, s.resultFlag_leaves x (byte_sub_toNat (s.reg x) (s.reg y)) rfl⟩,
    ⟨_, rfl, s.resultFlag_leaves x (byte_sub_toNat (s.reg y) (s.reg x)) rfl⟩⟩

/-- Settles O32: the value by the arithmetic of the shift, the flag by the bit shifted out. -/
theorem shiftsInPlace : Obligations.ShiftsInPlace := fun x _ s =>
  ⟨⟨_, rfl, s.resultFlag_leaves x (byte_ushiftRight_one_toNat (s.reg x)) (lowBitFlag_eq (s.reg x))⟩,
    ⟨_, rfl, s.resultFlag_leaves x (byte_shiftLeft_one_toNat (s.reg x)) (highBitFlag_eq (s.reg x))⟩⟩

/-- Settles O27: both write their operand without a flag. -/
theorem loadsIntoRegister : Obligations.LoadsIntoRegister := fun x y nn s =>
  ⟨⟨_, rfl, s.result_reg_same x nn, s.result_frame x nn⟩,
    ⟨_, rfl, s.result_reg_same x (s.reg y), s.result_frame x (s.reg y)⟩⟩

/-- Settles O33: whatever the byte drawn, the mask keeps no bit outside `nn`. -/
theorem randomByteUnderTheMask : Obligations.RandomByteUnderTheMask := by
  intro x nn s
  have hreg : (s.nextDraw.result x (s.draw &&& nn)).reg x = s.draw &&& nn := State.result_reg_same _ _ _
  obtain ⟨hother, hpc, -⟩ := s.nextDraw.result_frame x (s.draw &&& nn)
  refine ⟨_, rfl, hreg, ?_, hother, hpc, rfl, rfl, fun _ => rfl⟩
  rw [hreg, BitVec.and_assoc, BitVec.and_not_self]
  exact BitVec.and_zero

end Sys2Proof.Machine
end

section
/-! PROOFS. The control-flow instructions but the overflow of `CALL` (spec 41_control_flow.md R150 to R158, R162): what a
change of `pc` and the two stack operations leave, then each instruction's own target. -/

namespace Sys2Proof.Machine

/-! ## What a change of `pc` leaves -/

theorem State.sameButPc_setPc (s : State) (w : Word) : s.SameButPc (s.setPc w) := ⟨rfl, fun _ => rfl⟩

/-- All a skip instruction leaves, from its test as the condition `c` (41_control_flow.md R161). -/
theorem State.skipIf_leaves (s : State) {b : Bool} {c : Prop} [Decidable c] (hb : b = true ↔ c) :
    (s.skipIf b).pc = (if c then s.pc + 4 else s.pc + 2) ∧ s.SameButPc (s.skipIf b) := by
  rw [State.skipIf_eq]
  exact ⟨if_congr hb rfl rfl, s.sameButPc_setPc _⟩

/-! ## Room and entries on the stack -/

theorem State.stackFull_eq_false {s : State} (h : s.sp.val < 16) : s.stackFull = false :=
  beq_false_of_ne h.ne

theorem State.stackEmpty_eq_true {s : State} (h : s.sp.val = 0) : s.stackEmpty = true :=
  beq_iff_eq.mpr h

theorem State.stackEmpty_eq_false {s : State} (h : 0 < s.sp.val) : s.stackEmpty = false :=
  beq_false_of_ne h.ne'

/-- A push stores the pushed word in the cell at `sp`, the first one not in use (10_state.md R29). -/
theorem State.push_stack_same (s : State) (w : Word) (h : s.sp.val < 16) : (s.push w).stack[s.sp.val] = w := by
  simp only [s.push_stack w h, Vector.getElem_set_self]

theorem State.push_stack_other (s : State) (w : Word) (h : s.sp.val < 16) {j : Nat} (hj : j < 16)
    (hne : j ≠ s.sp.val) : (s.push w).stack[j] = s.stack[j] := by
  simp only [s.push_stack w h, Vector.getElem_set_ne h hj hne.symm]

/-! ## The instructions -/

/-- The opcode of `SYS nnn` is 0x0nnn: its group nibble adds nothing (30_encoding.md R95). -/
theorem encode_sys_toNat (nnn : Addr12) : (encode (.sys nnn)).toNat = nnn.toNat := by
  rw [encode, encNNN, BitVec.toNat_append, BitVec.toNat_zero, Nat.zero_shiftLeft, Nat.zero_or]

/-- Settles O34: the answer is the raise, with the full opcode as its code. -/
theorem sysRaisesUnknownOpcode : Obligations.SysRaisesUnknownOpcode := fun nnn _ =>
  ⟨_, _, rfl, rfl, encode_sys_toNat nnn, rfl, fun _ => rfl⟩

/-- Settles O35: a target equal to `pc` writes back the value `pc` has. -/
theorem jumpSetsPcOnly : Obligations.JumpSetsPcOnly := by
  intro nnn s
  refine ⟨_, rfl, addrImm_toNat nnn, s.sameButPc_setPc _, fun hself => ?_⟩
  have htarget : addrImm nnn = s.pc := BitVec.eq_of_toNat_eq ((addrImm_toNat nnn).trans hself.symm)
  rw [htarget]
  rfl

/-- Settles O36: the sum is too small to be reduced. -/
theorem jumpV0AddsRegisterZero : Obligations.JumpV0AddsRegisterZero := fun nnn s =>
  ⟨_, rfl, jpV0_target_toNat nnn s 0, s.sameButPc_setPc _⟩

/-- Settles O37: with room, `CALL` is a push and a jump, each with its frame. -/
theorem callPushesAndJumps : Obligations.CallPushesAndJumps := by
  intro nnn s h
  refine ⟨_, exec_call_pushes nnn s (State.stackFull_eq_false h), s.push_stack_same _ h,
    fun j hj hne => s.push_stack_other _ h hj hne, s.push_sp _ h, addrImm_toNat nnn, ?_, s.push_readByte _⟩
  simp

/-- Settles O39: an empty stack raises, any other is popped. -/
theorem returnPopsOrUnderflows : Obligations.ReturnPopsOrUnderflows := by
  intro s
  rcases Nat.eq_zero_or_pos s.sp.val with hempty | hentry
  · exact ⟨_, exec_ret_raises s (State.stackEmpty_eq_true hempty), fun _ => rfl, fun h => absurd hempty h.ne'⟩
  · exact ⟨_, exec_ret_pops s (State.stackEmpty_eq_false hentry), fun h => absurd h hentry.ne',
      fun _ => ⟨s.pop_sp, rfl, rfl, fun _ => rfl⟩⟩

/-- Settles O40: the entry the `RET` pops is the one the `CALL` pushed, so both sides are read off O37 and O39. -/
theorem returnAfterCallRestores : Obligations.ReturnAfterCallRestores := by
  intro nnn s h
  obtain ⟨t, ht, hpushed, -, hdepth, -⟩ := callPushesAndJumps nnn s h
  refine ⟨t, ht, fun u husp hcell => ?_⟩
  have hu : u.sp.val = s.sp.val + 1 := husp ▸ hdepth
  obtain ⟨w, hw, -, hpop⟩ := returnPopsOrUnderflows u
  obtain ⟨hwsp, hwpc, -⟩ := hpop (hu ▸ Nat.succ_pos _)
  simp only [hu, Nat.add_sub_cancel] at hwsp hwpc
  exact ⟨w, hw, hwpc.trans (hcell.trans hpushed), Fin.ext hwsp⟩

/-- Settles O41: the four skips differ only in their test. -/
theorem registerSkips : Obligations.RegisterSkips := fun _ _ _ s =>
  ⟨⟨_, rfl, s.skipIf_leaves beq_iff_eq⟩, ⟨_, rfl, s.skipIf_leaves bne_iff_ne⟩,
    ⟨_, rfl, s.skipIf_leaves beq_iff_eq⟩, ⟨_, rfl, s.skipIf_leaves bne_iff_ne⟩⟩

end Sys2Proof.Machine
end

section
/-! PROOFS. The index-register and memory instructions (spec 42_memory_index.md R170 to R175, R181): what a write of `I`
leaves, the three digits of `FX33`, then each instruction. -/

namespace Sys2Proof.Machine

/-! ## The index register -/

/-- All an instruction that only writes `I` leaves, from the word written as the number `n`. -/
theorem State.setI_advance_leaves (s : State) {w : Word} {n : Nat} (hw : w.toNat = n) :
    (s.setI w).advance.i.toNat = n ∧ (s.setI w).advance.pc = s.pc + 2 ∧
      { (s.setI w).advance with i := s.i, pc := s.pc } = s ∧ s.SameBytes (s.setI w).advance :=
  ⟨hw, rfl, rfl, fun _ => rfl⟩

theorem State.regWord_toNat (s : State) (x : Reg) : (s.regWord x).toNat = (s.reg x).toNat :=
  BitVec.toNat_setWidth_of_le (by decide)

theorem State.i_add_regWord_toNat (s : State) (x : Reg) :
    (s.i + s.regWord x).toNat = (s.i.toNat + (s.reg x).toNat) % 65536 := by
  rw [BitVec.toNat_add, State.regWord_toNat]

/-- The font starts at address 0, and even its last glyph lies far below 65536 (42_memory_index.md R172, D14). -/
theorem glyphAddr_toNat (d : Nibble) : (glyphAddr d).toNat = 5 * d.toNat := by
  have hd := d.isLt
  rw [glyphAddr, fontBase, BitVec.toNat_ofNat]
  omega

theorem State.regNibble_toNat (s : State) (x : Reg) : (s.regNibble x).toNat = (s.reg x).toNat % 16 := by
  rw [State.regNibble_eq, BitVec.toNat_ofNat]

/-- Settles O42: the word loaded is `nnn`, zero-extended. -/
theorem loadIndex : Obligations.LoadIndex := fun nnn s =>
  ⟨_, rfl, s.setI_advance_leaves (addrImm_toNat nnn)⟩

/-- Settles O43: both write `I` alone, the one with a sum of words, the other with a glyph address. -/
theorem indexAddAndGlyph : Obligations.IndexAddAndGlyph := by
  intro x s
  have hglyph : (glyphAddr (s.regNibble x)).toNat = 5 * ((s.reg x).toNat % 16) := by
    rw [glyphAddr_toNat, State.regNibble_toNat]
  exact ⟨⟨_, rfl, s.setI_advance_leaves (s.i_add_regWord_toNat x)⟩, ⟨_, rfl, s.setI_advance_leaves hglyph⟩⟩

/-! ## Frames of the memory instructions -/

theorem State.sameButMemPc_setPc {s u : State} (w : Word) (hu : { u with mem := s.mem } = s) :
    s.SameButMemPc (u.setPc w) :=
  congrArg (fun t : State => t.setPc s.pc) hu

theorem State.sameButRegsPc_setPc {s u : State} (w : Word) (hu : { u with v := s.v } = s) :
    s.SameButRegsPc (u.setPc w) :=
  ⟨congrArg (fun t : State => t.setPc s.pc) hu, fun a => (congrArg (·.readByte a) hu :)⟩

/-! ## Decimal digits -/

theorem bcdHundreds_toNat (b : Byte) : (bcdHundreds b).toNat = b.toNat / 100 := by
  have hb := b.isLt
  rw [bcdHundreds, BitVec.toNat_ofNat, Nat.mod_eq_of_lt (by omega)]

theorem bcdTens_toNat (b : Byte) : (bcdTens b).toNat = b.toNat / 10 % 10 := by
  rw [bcdTens, BitVec.toNat_ofNat, Nat.mod_eq_of_lt (by omega)]

theorem bcdOnes_toNat (b : Byte) : (bcdOnes b).toNat = b.toNat % 10 := by
  rw [bcdOnes, BitVec.toNat_ofNat, Nat.mod_eq_of_lt (by omega)]

/-- The three stores of `FX33` for the byte `b` (42_memory_index.md R173). -/
def State.storeDigits (s : State) (b : Byte) : State :=
  ((s.writeAtI 0 (bcdHundreds b)).writeAtI 1 (bcdTens b)).writeAtI 2 (bcdOnes b)

/-- `FX33` always completes (42_memory_index.md R173). -/
theorem exec_ldB (x : Reg) (s : State) :
    exec (.ldB x) s = .next ((s.storeDigits (s.reg x)).setPc (s.pc + 2)) := rfl

theorem State.storeDigits_same (s : State) (b : Byte) : { s.storeDigits b with mem := s.mem } = s := rfl

/-- Memory after the three stores, the last one first. -/
theorem State.storeDigits_readByte (s : State) (b : Byte) (a : Nat) :
    (s.storeDigits b).readByte a =
      if a % 4096 = s.dataAddr 2 % 4096 then bcdOnes b
      else if a % 4096 = s.dataAddr 1 % 4096 then bcdTens b
      else if a % 4096 = s.dataAddr 0 % 4096 then bcdHundreds b
      else s.readByte a := by
  simp only [State.storeDigits, State.writeAtI, State.writeByte_readByte]
  rfl

/-- Two of the three addresses never meet, since the ring of addresses is longer than 2. -/
theorem State.dataAddr_mod_ne (s : State) {j k : Nat} (hj : j < 3) (hk : k < 3) (hne : j ≠ k) :
    s.dataAddr j % 4096 ≠ s.dataAddr k % 4096 := by
  rw [State.dataAddr, State.dataAddr]
  omega

/-- Settles O44: no digit is overwritten by a later one, as the three addresses differ. -/
theorem decimalDigitsInMemory : Obligations.DecimalDigitsInMemory := by
  intro x s
  refine ⟨_, exec_ldB x s, ?_, ?_, ?_, fun a ha => ?_, rfl, s.sameButMemPc_setPc _ (s.storeDigits_same _)⟩
  all_goals rw [State.setPc_readByte, State.storeDigits_readByte]
  · rw [if_neg (s.dataAddr_mod_ne (by decide) (by decide) (by decide)),
      if_neg (s.dataAddr_mod_ne (by decide) (by decide) (by decide)), if_pos rfl, bcdHundreds_toNat]
  · rw [if_neg (s.dataAddr_mod_ne (by decide) (by decide) (by decide)), if_pos rfl, bcdTens_toNat]
  · rw [if_pos rfl, bcdOnes_toNat]
  · rw [if_neg (ha 2 (by decide)), if_neg (ha 1 (by decide)), if_neg (ha 0 (by decide))]

/-! ## Register dump and load -/

/-- Settles O46: byte `k` of the dump is `V[k]`, and the dump stores nothing else. -/
theorem registersStoredInMemory : Obligations.RegistersStoredInMemory := by
  intro x s
  refine ⟨_, exec_storeRegs x s, fun r hr => ?_, fun a ha => ?_, rfl, State.sameButMemPc_setPc _ (s.storeUpTo_same _)⟩
  · have hbyte := s.storeUpTo_readByte_inside (x.toNat + 1) r.toNat x.isLt (Nat.lt_succ_of_le hr)
    rwa [BitVec.ofNat_toNat, BitVec.setWidth_eq] at hbyte
  · exact s.storeUpTo_readByte_outside _ a fun k hk => ha k (Nat.le_of_lt_succ hk)

/-- `FX65` always completes (42_memory_index.md R175). -/
theorem exec_loadRegs (x : Reg) (s : State) :
    exec (.loadRegs x) s = .next ((s.loadUpTo (x.toNat + 1)).setPc (s.pc + 2)) := by
  rw [← s.loadUpTo_pc (x.toNat + 1)]
  rfl

/-- Settles O47: register `r` is loaded exactly if it is below the count `x + 1`. -/
theorem registersLoadedFromMemory : Obligations.RegistersLoadedFromMemory := by
  intro x s
  refine ⟨_, exec_loadRegs x s, fun r hr => ?_, fun r hr => ?_, rfl, State.sameButRegsPc_setPc _ (s.loadUpTo_same _)⟩
  all_goals rw [State.setPc_reg, State.loadUpTo_reg _ _ x.isLt]
  · exact if_pos (Nat.lt_succ_of_le hr)
  · exact if_neg (Nat.not_lt.mpr hr)

/-- Settles O45: `FX65` reads the digits of O44 at the addresses `FX33` wrote, since `FX33` leaves `I`. -/
theorem decimalRoundTrip : Obligations.DecimalRoundTrip := by
  intro x s
  obtain ⟨t, ht, hhundreds, htens, hones, -, -, hstored⟩ := decimalDigitsInMemory x s
  obtain ⟨u, hu, hload, -, -, hloaded, -⟩ := registersLoadedFromMemory 2 t
  have hti : t.i = s.i := (congrArg State.i hstored :)
  have hui : u.i = t.i := (congrArg State.i hloaded :)
  have hreg (r : Reg) (hr : r.toNat ≤ 2) : u.reg r = t.readByte (s.dataAddr r.toNat) := by
    rw [hload r hr, State.dataAddr, State.dataAddr, hti]
  have h0 : (u.reg 0).toNat = (s.reg x).toNat / 100 := (congrArg _ (hreg 0 (by decide))).trans hhundreds
  have h1 : (u.reg 1).toNat = (s.reg x).toNat / 10 % 10 := (congrArg _ (hreg 1 (by decide))).trans htens
  have h2 : (u.reg 2).toNat = (s.reg x).toNat % 10 := (congrArg _ (hreg 2 (by decide))).trans hones
  have hb := (s.reg x).isLt
  exact ⟨t, u, ht, hu, by omega, by omega, by omega, by omega, hui.trans hti⟩

end Sys2Proof.Machine
end

section
/-! PROOFS. The graphics instructions (spec 43_graphics.md R190 to R194): the framebuffer read position by position, the
pixels of a sprite and the collision in terms of them, then `CLS`, one draw, and two draws in a row. -/

namespace Sys2Proof.Machine

/-! ## The framebuffer, position by position -/

theorem Framebuffer.getElem_eq_pixel (fb : Framebuffer) {y x : Nat} (hy : y < 32) (hx : x < 64) :
    fb[y][x] = fb.pixel y x := by
  simp [Framebuffer.pixel, Nat.mod_eq_of_lt hy, Nat.mod_eq_of_lt hx]

theorem Framebuffer.pixel_congr (fb : Framebuffer) {y y' x x' : Nat} (hy : y % 32 = y' % 32) (hx : x % 64 = x' % 64) :
    fb.pixel y x = fb.pixel y' x' := by
  simp [Framebuffer.pixel, hy, hx]

theorem Framebuffer.ext_pixel {fb fb' : Framebuffer} (h : ∀ y x, fb.pixel y x = fb'.pixel y x) : fb = fb' := by
  ext y hy x hx
  rw [fb.getElem_eq_pixel hy hx, fb'.getElem_eq_pixel hy hx, h]

/-! ## The pixels of a sprite and the collision -/

/-- Where a sprite has a 1 bit, row by row and column by column from its start. -/
theorem State.spriteOver_iff (s : State) (y0 x0 n y x : Nat) (hn : n ≤ 32) :
    s.spriteOver y0 x0 n y x = true ↔ ∃ r < n, ∃ c < 8, y % 32 = (y0 + r) % 32 ∧ x % 64 = (x0 + c) % 64 ∧
      spriteBit (s.readByte (s.i.toNat + r)) c = true := by
  simp only [State.spriteOver, Bool.and_eq_true, decide_eq_true_eq]
  constructor
  · rintro ⟨⟨hr, hc⟩, hbit⟩
    exact ⟨_, hr, _, hc, (wrapOffset_eq_iff 32 y0 y _ (by omega)).mp rfl,
      (wrapOffset_eq_iff 64 x0 x _ (by omega)).mp rfl, hbit⟩
  · rintro ⟨r, hr, c, hc, hy, hx, hbit⟩
    rw [(wrapOffset_eq_iff 32 y0 y r (by omega)).mpr hy, (wrapOffset_eq_iff 64 x0 x c (by omega)).mpr hx]
    exact ⟨⟨hr, hc⟩, hbit⟩

/-- The collision of the sprite loops, as a position of the framebuffer where a sprite pixel meets an on pixel. -/
theorem State.drawRows_collides_iff (s : State) (y0 x0 n : Nat) (hn : n ≤ 32) :
    (s.drawRows y0 x0 n).2 = true ↔ ∃ py px, py < 32 ∧ px < 64 ∧
      s.spriteOver y0 x0 n py px = true ∧ s.fb.pixel py px = true := by
  simp only [s.drawRows_hit y0 x0 n hn, s.spriteOver_iff y0 x0 n _ _ hn]
  constructor
  · rintro ⟨r, hr, c, hc, hbit, hon⟩
    have hy : (y0 + r) % 32 % 32 = (y0 + r) % 32 := Nat.mod_mod _ _
    have hx : (x0 + c) % 64 % 64 = (x0 + c) % 64 := Nat.mod_mod _ _
    exact ⟨(y0 + r) % 32, (x0 + c) % 64, by omega, by omega, ⟨r, hr, c, hc, hy, hx, hbit⟩,
      (s.fb.pixel_congr hy hx).trans hon⟩
  · rintro ⟨py, px, -, -, ⟨r, hr, c, hc, hy, hx, hbit⟩, hon⟩
    exact ⟨r, hr, c, hc, hbit, (s.fb.pixel_congr hy hx).symm.trans hon⟩

/-! ## One draw -/

/-- The sprite pixel that `DRW Vx, Vy, n` lays over `fb[py][px]` (43_graphics.md R191). -/
def State.sprite (s : State) (x y : Reg) (n : Nibble) (py px : Nat) : Bool :=
  s.spriteOver ((s.reg y).toNat % 32) ((s.reg x).toNat % 64) n.toNat py px

/-- The framebuffer and the collision that `DRW Vx, Vy, n` computes (43_graphics.md R191). -/
def State.drawn (s : State) (x y : Reg) (n : Nibble) : Framebuffer × Bool :=
  s.drawRows ((s.reg y).toNat % 32) ((s.reg x).toNat % 64) n.toNat

/-- The state `DRW Vx, Vy, n` answers (43_graphics.md R191). -/
def State.afterDraw (s : State) (x y : Reg) (n : Nibble) : State :=
  ((s.setFb (s.drawn x y n).1).setFlag (s.drawn x y n).2).setPc (s.pc + 2)

/-- `DXYN` always completes (43_graphics.md R191). -/
theorem exec_drw (x y : Reg) (n : Nibble) (s : State) : exec (.drw x y n) s = .next (s.afterDraw x y n) := rfl

theorem flagByte_eq_zero_or_one (f : Bool) : flagByte f = 0 ∨ flagByte f = 1 := by
  cases f <;> decide

theorem flagByte_eq_one_iff (f : Bool) : flagByte f = 1 ↔ f = true := by
  cases f <;> decide

section
variable (s : State) (x y : Reg) (n : Nibble)

theorem State.afterDraw_pixel (py px : Nat) :
    (s.afterDraw x y n).fb.pixel py px = (s.fb.pixel py px ^^ s.sprite x y n py px) :=
  s.drawRows_pixel _ _ _ (by omega) py px

theorem State.afterDraw_reg_vf : (s.afterDraw x y n).reg 15 = flagByte (s.drawn x y n).2 :=
  State.setReg_reg_same _ Reg.vf _

theorem State.afterDraw_reg_other {r : Reg} (hr : r ≠ 15) : (s.afterDraw x y n).reg r = s.reg r :=
  State.setReg_reg_other _ Reg.vf r _ hr

theorem State.afterDraw_collides_iff :
    (s.afterDraw x y n).reg 15 = 1 ↔
      ∃ py px, py < 32 ∧ px < 64 ∧ s.sprite x y n py px = true ∧ s.fb.pixel py px = true := by
  rw [State.afterDraw_reg_vf, flagByte_eq_one_iff]
  exact s.drawRows_collides_iff _ _ _ (by omega)

/-- With `x` and `y` other than 15 the collision overwrites neither coordinate: the next draw lays the same sprite. -/
theorem State.afterDraw_sprite {x y : Reg} (hx : x ≠ 15) (hy : y ≠ 15) (py px : Nat) :
    (s.afterDraw x y n).sprite x y n py px = s.sprite x y n py px := by
  rw [State.sprite, s.afterDraw_reg_other x y n hx, s.afterDraw_reg_other x y n hy]
  rfl

end

/-! ## The instructions -/

/-- Settles O48: the cleared framebuffer is off at every position. -/
theorem clearTurnsEveryPixelOff : Obligations.ClearTurnsEveryPixelOff := fun s =>
  ⟨(s.setFb Framebuffer.clear).advance, rfl,
    fun y x hy hx => (Framebuffer.clear.getElem_eq_pixel hy hx).trans (Framebuffer.pixel_clear y x),
    rfl, rfl, fun _ => rfl⟩

/-- Settles O49: an on pixel goes off exactly where a sprite pixel lies over it. -/
theorem drawXorsTheSprite : Obligations.DrawXorsTheSprite := by
  intro x y n s
  refine ⟨_, exec_drw x y n s, fun py px _ _ => s.afterDraw_pixel x y n py px, ?_, ?_,
    fun r hr => s.afterDraw_reg_other x y n hr, rfl, rfl, fun _ => rfl⟩
  · rw [State.afterDraw_reg_vf]
    exact flagByte_eq_zero_or_one _
  · have hoff (py px : Nat) : (s.sprite x y n py px = true ∧ s.fb.pixel py px = true) ↔
        (s.fb.pixel py px = true ∧ (s.afterDraw x y n).fb.pixel py px = false) := by
      rw [State.afterDraw_pixel]
      cases s.fb.pixel py px <;> simp
    simp only [State.afterDraw_collides_iff, hoff]

/-- Settles O50: the second draw XORs the same sprite on, and collides where it lies over what the first left on. -/
theorem drawingTwiceRestoresTheFramebuffer : Obligations.DrawingTwiceRestoresTheFramebuffer := by
  intro x y n s hx hy
  refine ⟨_, _, exec_drw x y n s, exec_drw x y n _, Framebuffer.ext_pixel fun py px => ?_, ?_⟩
  · rw [State.afterDraw_pixel, State.afterDraw_pixel, s.afterDraw_sprite n hx hy, Bool.xor_assoc, Bool.xor_self,
      Bool.xor_false]
  · simp only [State.afterDraw_collides_iff, s.afterDraw_sprite n hx hy]
    rfl

/-! ## The worked example -/

theorem spriteBit_allOn {c : Nat} (hc : c < 8) : spriteBit 0xFF c = true := by
  decide +revert

/-- The pixels of the one-row sprite of the worked example (43_graphics.md R194). -/
theorem State.sprite_row_at_60 (s : State) {x y : Reg} (hx : s.reg x = 60) (hy : s.reg y = 0)
    (hrow : s.readByte s.i.toNat = 0xFF) (py px : Nat) :
    s.sprite x y 1 py px = true ↔ py % 32 = 0 ∧ (60 ≤ px % 64 ∨ px % 64 ≤ 3) := by
  rw [State.sprite, hx, hy, s.spriteOver_iff _ _ _ _ _ (by decide)]
  constructor
  · rintro ⟨r, hr, c, hc, hpy, hpx, -⟩
    have hr : r < 1 := hr
    have hpy : py % 32 = r % 32 := by simpa using hpy
    have hpx : px % 64 = (60 + c) % 64 := hpx
    omega
  · rintro ⟨hpy, hpx⟩
    have hc : (px + 4) % 64 < 8 := by omega
    have hcol : px % 64 = (60 + (px + 4) % 64) % 64 := by omega
    exact ⟨0, by decide, _, hc, hpy, hcol, by rw [Nat.add_zero, hrow, spriteBit_allOn hc]⟩

/-- Settles O51: the first draw meets no on pixel; the second, which O50 speaks of, meets one at column 60. -/
theorem workedExampleOfTheWrap : Obligations.WorkedExampleOfTheWrap := by
  intro x y s hx hy hvx hvy hrow hclear
  obtain ⟨t, u, ht, hu, hrestored, hcollides⟩ := drawingTwiceRestoresTheFramebuffer x y 1 s hx hy
  obtain rfl : s.afterDraw x y 1 = t := Host.Outcome.next.inj ht
  have hon (py px : Nat) : (s.afterDraw x y 1).fb.pixel py px = true ↔
      py % 32 = 0 ∧ (60 ≤ px % 64 ∨ px % 64 ≤ 3) := by
    rw [State.afterDraw_pixel, hclear, Bool.false_xor, s.sprite_row_at_60 hvx hvy hrow]
  refine ⟨_, u, ht, hu, fun py px hpy hpx => ?_, ?_, fun py px => hrestored ▸ hclear py px, ?_⟩
  · rw [hon, Nat.mod_eq_of_lt hpy, Nat.mod_eq_of_lt hpx]
  · have hmiss : (s.afterDraw x y 1).reg 15 ≠ 1 := by
      rw [ne_eq, State.afterDraw_collides_iff]
      simp [hclear]
    rw [State.afterDraw_reg_vf] at hmiss ⊢
    exact (flagByte_eq_zero_or_one _).resolve_right hmiss
  · have hsprite := (s.sprite_row_at_60 hvx hvy hrow 0 60).mpr (by decide)
    exact hcollides.mpr ⟨0, 60, by decide, by decide, hsprite, (hon 0 60).mpr (by decide)⟩

end Sys2Proof.Machine
end

section
/-! PROOFS. The keypad instructions (spec 44_input.md R200 to R203): the skips on a key, the three cases of `FX0A`, the
press that ends its wait, and the `TICK` of a machine that goes on waiting. -/

namespace Sys2Proof.Machine

/-! ## The skips -/

theorem State.regNibble_of_toNat {s : State} {x : Reg} {k : Nibble} (h : k.toNat = (s.reg x).toNat % 16) :
    s.regNibble x = k :=
  BitVec.eq_of_toNat_eq ((s.regNibble_toNat x).trans h.symm)

/-- Settles O52: the two skips differ only in the level they test for. -/
theorem keySkips : Obligations.KeySkips := by
  intro x s k hk
  obtain rfl := State.regNibble_of_toNat hk
  exact ⟨⟨_, rfl, s.skipIf_leaves Iff.rfl⟩, ⟨_, rfl, s.skipIf_leaves (iff_of_eq (Bool.not_eq_true' _))⟩⟩

/-! ## The key wait -/

/-- A key index fits a register (44_input.md R203). -/
theorem keyIndex_toNat (k : Nibble) : (k.setWidth 8).toNat = k.toNat :=
  BitVec.toNat_setWidth_of_le (by decide)

/-- Settles O53: one case for each state of the key-wait unit. -/
theorem keyWaitArmsWaitsCompletes : Obligations.KeyWaitArmsWaitsCompletes := by
  intro x s
  obtain ⟨t, ht, -⟩ := exec_next_effect (.ldVxK x) s
  refine ⟨t, ht, ?_⟩
  obtain ⟨hw, rfl⟩ | ⟨hw, hv, rfl⟩ | ⟨hw, hv, rfl⟩ := exec_ldVxK_cases ht
  · exact ⟨fun _ => rfl, fun _ => ⟨rfl, rfl, rfl, rfl⟩, by simp [hw], by simp [hw]⟩
  · exact ⟨fun _ => rfl, by simp [hw], fun _ _ => rfl, by simp [hv]⟩
  · refine ⟨fun _ => rfl, by simp [hw], by simp [hv], fun _ _ => ⟨?_, fun r hr => ?_, rfl, rfl, rfl, rfl, rfl⟩⟩
    · rw [State.setPc_reg, State.setWait_reg, State.setReg_reg_same, keyIndex_toNat]
    · rw [State.setPc_reg, State.setWait_reg, State.setReg_reg_other s x r _ hr]

theorem keyOfCode_toNat (k : Nibble) : keyOfCode k.toNat = some k := by
  have hk := k.isLt
  rw [keyOfCode, if_pos (by omega), Int.toNat_natCast, BitVec.ofNat_toNat, BitVec.setWidth_eq]

theorem State.keyDown_toNat (s : State) (k : Nibble) : s.keyDown k.toNat = s.pressKey k := by
  rw [State.keyDown, keyOfCode_toNat]

theorem State.keyUp_toNat (s : State) (k : Nibble) : s.keyUp k.toNat = s.setKey k false := by
  rw [State.keyUp, keyOfCode_toNat]

/-- The state in which a press of key `k` leaves a machine whose wait was just armed, `s` being the state before the
arming: the press is latched and the key is held. -/
def State.pressedUnderWait (s : State) (k : Nibble) : State := (s.setWait true true k).setKey k true

/-- A press of a key that was not held fills the empty latch (48_cycle_tick_host.md R230). -/
theorem State.keyDown_armed {s : State} {k : Nibble} (hk : s.key k = false) :
    (s.setWait true false 0).keyDown k.toNat = s.pressedUnderWait k := by
  rw [State.keyDown_toNat, State.pressKey, if_pos (by simp [hk])]
  rfl

/-- `FX0A` with a latched press, whichever keys are held, loads the key and ends the wait (44_input.md R203). -/
theorem exec_ldVxK_loads_latch (x : Reg) {s : State} (hw : s.waitKey = true) (hv : s.latchValid = true) :
    ∃ t, exec (.ldVxK x) s = .next t ∧
      (t.reg x).toNat = s.latchKey.toNat ∧ t.pc = s.pc + 2 ∧ t.waitKey = false := by
  obtain ⟨t, ht, -, -, -, hloads⟩ := keyWaitArmsWaitsCompletes x s
  obtain ⟨hreg, -, hpc, hwait, -⟩ := hloads hw hv
  exact ⟨t, ht, hreg, hpc, hwait⟩

/-- Settles O54: the press fills the latch, and a release leaves it filled. -/
theorem freshPressEndsTheWait : Obligations.FreshPressEndsTheWait := by
  intro x k s hw hk
  have hpress := State.keyDown_armed hk
  have hrelease := (s.pressedUnderWait k).keyUp_toNat k
  obtain ⟨w, he, hreg, hpc, hwait⟩ := exec_ldVxK_loads_latch x (s := s.pressedUnderWait k) rfl rfl
  obtain ⟨w', he', hreg', hpc', hwait'⟩ := exec_ldVxK_loads_latch x (s := (s.pressedUnderWait k).setKey k false) rfl rfl
  refine ⟨_, w, w', exec_ldVxK_arms x s hw, rfl, ?_, ?_, hreg, hpc, hwait, hreg', hpc', hwait'⟩
  · rw [hpress, he]
  · rw [hpress, hrelease, he']

/-! ## A machine whose cycles change nothing -/

/-- The state stands still: it runs, and whatever the count of cycles, its cycle leaves all as it was. -/
structure State.StandsStill (s : State) : Prop where
  running : s.fault = none
  cycle_withCycles : ∀ c, State.cycle { s with cycles := c } = .next { s with cycles := c }

theorem State.StandsStill.cycle {s : State} (h : s.StandsStill) : s.cycle = .next s :=
  h.cycle_withCycles s.cycles

theorem State.StandsStill.countCycle {s : State} (h : s.StandsStill) : s.countCycle.StandsStill :=
  ⟨h.running, h.cycle_withCycles⟩

/-- A batch of a machine that stands still only counts its cycles. -/
theorem State.StandsStill.batch {s : State} (h : s.StandsStill) (k : Nat) :
    s.batch k = .next { s with cycles := s.cycles + k } := by
  induction k generalizing s with
  | zero => rfl
  | succ k ih =>
    have hrun : s.batch (k + 1) = s.countCycle.batch k := by simp [State.batch, h.cycle, h.running]
    rw [hrun, ih h.countCycle, State.countCycle_cycles, Nat.add_right_comm]
    rfl

/-- A `TICK` of a machine that stands still counts the cycles and the timers, and changes nothing else
(48_cycle_tick_host.md R222, R224). -/
theorem State.StandsStill.tickWith {s : State} (h : s.StandsStill) (perTick : Nat) :
    ∃ t, s.tickWith perTick = .next t ∧ { t with dt := s.dt, st := s.st, cycles := s.cycles } = s ∧
      t.dt.toNat = s.dt.toNat - 1 ∧ t.st.toNat = s.st.toNat - 1 := by
  refine ⟨State.countTimers { s with cycles := s.cycles + perTick } true, ?_, rfl, countDown_toNat true s.dt,
    countDown_toNat true s.st⟩
  simp [State.tickWith, h.batch, h.running]

/-- A machine that waits with nothing latched stands still: its cycle is the waiting `FX0A` (44_input.md R203). -/
theorem State.standsStill_of_waiting {s : State} (hi : s.Inv) (hw : s.waitKey = true) (hv : s.latchValid = false) :
    s.StandsStill := by
  obtain ⟨-, -, hfault, -, hat⟩ := hi
  obtain ⟨x, hd⟩ := s.atKeyWait_iff.mp (hat hw)
  refine ⟨hfault hw, fun c => ?_⟩
  rw [State.cycle_decoded { s with cycles := c } (.ldVxK x) hd]
  exact exec_ldVxK_waits x { s with cycles := c } hw hv

/-- Settles O20: a machine that waits with nothing latched stands still. -/
theorem waitingMachineKeepsWaiting : Obligations.WaitingMachineKeepsWaiting := fun perTick _ hi hw hv =>
  (State.standsStill_of_waiting hi hw hv).tickWith perTick

end Sys2Proof.Machine
end

section
/-! PROOFS. The timer instructions (spec 45_timers.md R210 to R212): what a write of each timer leaves, then the three
transfers. -/

namespace Sys2Proof.Machine

/-- All an instruction that only writes the delay timer leaves (45_timers.md R211). -/
theorem State.setDT_advance_leaves (s : State) (b : Byte) :
    (s.setDT b).advance.dt = b ∧ (s.setDT b).advance.pc = s.pc + 2 ∧
      { (s.setDT b).advance with dt := s.dt, pc := s.pc } = s ∧ s.SameBytes (s.setDT b).advance :=
  ⟨rfl, rfl, rfl, fun _ => rfl⟩

/-- All an instruction that only writes the sound timer leaves (45_timers.md R212). -/
theorem State.setST_advance_leaves (s : State) (b : Byte) :
    (s.setST b).advance.st = b ∧ (s.setST b).advance.pc = s.pc + 2 ∧
      { (s.setST b).advance with st := s.st, pc := s.pc } = s ∧ s.SameBytes (s.setST b).advance :=
  ⟨rfl, rfl, rfl, fun _ => rfl⟩

/-- Settles O55: the read is a register result without a flag, and each write is a write of one timer. -/
theorem timerTransfers : Obligations.TimerTransfers := fun x s =>
  ⟨⟨_, rfl, s.result_reg_same x s.dt, s.result_frame x s.dt⟩,
    ⟨_, rfl, s.setDT_advance_leaves (s.reg x)⟩, ⟨_, rfl, s.setST_advance_leaves (s.reg x)⟩⟩

end Sys2Proof.Machine
end

section
/-! PROOFS. The instruction cycle, the step and the `TICK` (spec 48_cycle_tick_host.md R221 to R225, R237): a cycle
always answers, a step is a cycle and the counting after it, and a `TICK` from a tick boundary is a run of steps. -/

namespace Sys2Proof.Machine

/-! ## One step -/

/-- Fetch, decode and execute always answer a next state: every instruction does, and so does the raise of a word of no
row (60_exceptions.md R251, R256). -/
theorem State.cycle_next (s : State) : ∃ t, s.cycle = .next t := by
  cases hd : decode s.fetch with
  | ok i =>
    obtain ⟨t, ht, -⟩ := exec_next_effect i s
    exact ⟨t, (s.cycle_decoded i hd).trans ht⟩
  | error r => exact ⟨_, s.cycle_unknown r hd⟩

/-- The count of cycles is the step's, not the instruction's (48_cycle_tick_host.md R222). -/
theorem State.cycle_cycles {s t : State} (h : s.cycle = .next t) : t.cycles = s.cycles := by
  obtain ⟨i, -, he⟩ | ⟨r, -, rfl⟩ := s.cycle_cases t h
  · obtain ⟨-, -, -, -, -, -, -, -, -, -, -, hc⟩ := onlyNamedInstructionsWriteEachState i s t he
    exact hc
  · rfl

theorem step_of_cycle {s t : State} (hf : s.fault = none) (h : s.cycle = .next t) :
    step s = .next (t.afterCycle Config.cyclesPerTick) :=
  (s.stepWith_next _ _).mpr ⟨hf, t, h, rfl⟩

theorem decodeBytes_cons_cons (hi lo : Byte) (rest : List Byte) :
    decodeBytes (hi :: lo :: rest) = (decode (combine hi lo)).map fun i => (i, rest) := by
  cases hd : decode (combine hi lo) <;> simp [decodeBytes, hd, Except.map]

/-- The two bytes at `pc`, decoded as bytes, are the fetched word decoded (20_memory.md R63). -/
theorem State.decode_fetch_of_decodeBytes {s : State} {i : Instr}
    (h : decodeBytes [s.readByte s.pc.toNat, s.readByte (s.pc.toNat + 1)] = .ok (i, [])) :
    decode s.fetch = .ok i := by
  rw [decodeBytes_cons_cons] at h
  unfold State.fetch
  cases hd : decode (combine (s.readByte s.pc.toNat) (s.readByte (s.pc.toNat + 1))) with
  | ok j => simpa [hd, Except.map] using h
  | error r => simp [hd, Except.map] at h

theorem countDown_eq_ite (p : Prop) [Decidable p] (b : Byte) :
    countDown (decide p) b = if p ∧ b ≠ 0 then b - 1 else b := by
  rw [countDown]
  by_cases hb : b = 0
  · rw [if_pos hb, if_neg fun h => h.2 hb, hb]
  · rw [if_neg hb]
    simp only [decide_eq_true_eq, ne_eq, hb, not_false_eq_true, and_true]

/-- Settles O14: the step is the cycle and what follows it, by whether the cycle raised. -/
theorem stepRunsTheDecodedInstruction : Obligations.StepRunsTheDecodedInstruction := by
  intro s t i hf hd he
  have hc : s.cycle = .next t := (s.cycle_decoded i (State.decode_fetch_of_decodeBytes hd)).trans he
  refine ⟨fun hraised => ?_, fun hran => ?_⟩
  · rw [step_of_cycle hf hc, t.afterCycle_raised _ hraised]
  · rw [step_of_cycle hf hc, t.afterCycle_running _ hran, ← countDown_eq_ite, ← countDown_eq_ite]
    rfl

/-- Settles O15: the cycle raises, and nothing follows a raise. -/
theorem unknownWordRaisesUnknownOpcode : Obligations.UnknownWordRaisesUnknownOpcode := by
  intro s r hf hd
  rw [step_of_cycle hf (s.cycle_unknown r hd), State.afterCycle_raised _ _ (Option.some_ne_none _)]
  rfl

/-! ## The `TICK` -/

/-- A `TICK` of a stopped machine is no operation (48_cycle_tick_host.md R223). -/
theorem State.tickWith_stopped (perTick : Nat) {s : State} (h : s.fault ≠ none) : s.tickWith perTick = .next s :=
  if_pos (Option.isSome_iff_ne_none.mpr h)

/-- Settles O16: the tick is no operation, and its response is the recorded fault. -/
theorem stoppedMachineRunsNothing : Obligations.StoppedMachineRunsNothing := by
  intro s f hf
  refine ⟨s.stepWith_stopped _ f hf, fun perTick => ?_⟩
  have htick : s.tickWith perTick = .next s := State.tickWith_stopped perTick (by simp [hf])
  simp [State.transactWith, htick, State.tickResponse, hf]

theorem State.batch_succ_raised (k : Nat) {s t : State} (hc : s.cycle = .next t) (hf : t.fault ≠ none) :
    s.batch (k + 1) = .next t := by
  simp [State.batch, hc, Option.isSome_iff_ne_none.mpr hf]

theorem State.batch_succ_running (k : Nat) {s t : State} (hc : s.cycle = .next t) (hf : t.fault = none) :
    s.batch (k + 1) = t.countCycle.batch k := by
  simp [State.batch, hc, hf]

/-- A batch always answers a next state: each of its cycles does. -/
theorem State.batch_next (k : Nat) (s : State) : ∃ t, s.batch k = .next t := by
  induction k generalizing s with
  | zero => exact ⟨s, rfl⟩
  | succ k ih =>
    obtain ⟨u, hc⟩ := s.cycle_next
    by_cases hf : u.fault = none
    · obtain ⟨t, ht⟩ := ih u.countCycle
      exact ⟨t, (State.batch_succ_running k hc hf).trans ht⟩
    · exact ⟨u, State.batch_succ_raised k hc hf⟩

/-- How a `TICK` ends after its batch: as the batch left it if a cycle raised, else with both timers down
(48_cycle_tick_host.md R222, R224). -/
def State.endTick (u : State) : State := if u.fault.isSome then u else u.countTimers true

theorem State.endTick_raised {u : State} (h : u.fault ≠ none) : u.endTick = u :=
  if_pos (Option.isSome_iff_ne_none.mpr h)

theorem State.endTick_running {u : State} (h : u.fault = none) : u.endTick = u.countTimers true :=
  if_neg (by simp [h])

theorem State.endTick_fault (u : State) : u.endTick.fault = u.fault := by
  by_cases h : u.fault = none
  · rw [State.endTick_running h, State.countTimers_fault]
  · rw [State.endTick_raised h]

theorem State.tickWith_of_batch {perTick : Nat} {s u : State} (hf : s.fault = none) (hb : s.batch perTick = .next u) :
    s.tickWith perTick = .next u.endTick := by
  simp [State.tickWith, hf, hb, State.endTick]

/-- Settles O17: the batch answers, and the end of the tick counts the timers by whether it raised. -/
theorem tickCountsTimersOnceUnlessFaulted : Obligations.TickCountsTimersOnceUnlessFaulted := by
  intro perTick s hf
  obtain ⟨u, hb⟩ := s.batch_next perTick
  refine ⟨u, u.endTick, hb, State.tickWith_of_batch hf hb, State.endTick_raised, fun hran => ?_⟩
  rw [State.endTick_running hran]
  exact ⟨rfl, countDown_toNat true u.dt, countDown_toNat true u.st⟩

/-! ## A `TICK` as a run of steps -/

theorem countDown_false (b : Byte) : countDown false b = b :=
  BitVec.eq_of_toNat_eq (countDown_toNat false b)

theorem State.countTimers_false (s : State) : s.countTimers false = s := by
  simp only [State.countTimers, countDown_false]

/-- Before the last cycle of a tick what follows a cycle is its count alone. -/
theorem State.afterCycle_inside_tick {n : Nat} {s : State} (hf : s.fault = none) (h : (s.cycles + 1) % n ≠ 0) :
    s.afterCycle n = s.countCycle := by
  rw [s.afterCycle_running n hf, decide_eq_false h, State.countTimers_false]

/-- After the last cycle of a tick comes the end of the tick. -/
theorem State.afterCycle_at_tick_end {n : Nat} {s : State} (hf : s.fault = none) (h : (s.cycles + 1) % n = 0) :
    s.afterCycle n = s.countCycle.endTick := by
  rw [s.afterCycle_running n hf, decide_eq_true h, State.endTick_running (u := s.countCycle) hf]

/-- The count after a cycle that is not its tick's last is no tick boundary: the next one is less than a tick away. -/
theorem succ_mod_ne_zero_inside_tick {n c j : Nat} (hj : j + 2 ≤ n) (hc : (c + (j + 2)) % n = 0) :
    (c + 1) % n ≠ 0 := by
  intro h
  have hdvd := Nat.dvd_sub (Nat.dvd_of_mod_eq_zero hc) (Nat.dvd_of_mod_eq_zero h)
  rw [show c + (j + 2) - (c + 1) = j + 1 by omega] at hdvd
  exact absurd (Nat.le_of_dvd (Nat.succ_pos j) hdvd) (by omega)

theorem core_run_succ {s t : State} (h : step s = .next t) (k : Nat) :
    Sys2Proof.core.run (k + 1) s = Sys2Proof.core.run k t := by
  have hstep : Sys2Proof.core.step s = .next t := h
  simp only [Host.Core.run, hstep]

theorem core_run_one {s t : State} (h : step s = .next t) : Sys2Proof.core.run 1 s = .next t :=
  core_run_succ h 0

/-- The last `m` cycles of a tick and its end are that many steps, or as many as it took to raise. -/
theorem State.run_of_batch (m : Nat) {s u : State} (hf : s.fault = none) (hpos : 1 ≤ m)
    (hm : m ≤ Config.cyclesPerTick) (hend : (s.cycles + m) % Config.cyclesPerTick = 0) (hb : s.batch m = .next u) :
    ∃ k, 1 ≤ k ∧ k ≤ m ∧ Sys2Proof.core.run k s = .next u.endTick ∧ (k < m → u.fault ≠ none) := by
  induction m generalizing s with
  | zero => omega
  | succ m ih =>
    obtain ⟨w, hc, ⟨hw, rfl⟩ | ⟨hw, hb⟩⟩ := State.batch_succ_cases hb
    · have hstep : step s = .next u.endTick := by
        rw [step_of_cycle hf hc, u.afterCycle_raised _ hw, State.endTick_raised hw]
      exact ⟨1, le_rfl, hpos, core_run_one hstep, fun _ => hw⟩
    · have hcycles := State.cycle_cycles hc
      have hstep := step_of_cycle hf hc
      cases m with
      | zero =>
        obtain rfl := Host.Outcome.next.inj hb
        rw [State.afterCycle_at_tick_end hw (hcycles ▸ hend)] at hstep
        exact ⟨1, le_rfl, le_rfl, core_run_one hstep, by omega⟩
      | succ m =>
        rw [State.afterCycle_inside_tick hw (hcycles ▸ succ_mod_ne_zero_inside_tick hm hend)] at hstep
        have hend' : (w.countCycle.cycles + (m + 1)) % Config.cyclesPerTick = 0 := by
          rwa [w.countCycle_cycles, hcycles, Nat.add_assoc, Nat.add_comm 1]
        obtain ⟨k, -, hkm, hrun, hraised⟩ :=
          ih (s := w.countCycle) hw (Nat.succ_pos m) (Nat.le_of_succ_le hm) hend' hb
        exact ⟨k + 1, Nat.succ_pos k, Nat.succ_le_succ hkm, (core_run_succ hstep k).trans hrun,
          fun hlt => hraised (Nat.lt_of_succ_lt_succ hlt)⟩

/-- Settles O18: the batch begins at the tick's first cycle, so its last cycle ends the tick. -/
theorem tickIsItsSteps : Obligations.TickIsItsSteps := by
  intro s t hf hbetween htick
  obtain ⟨u, hb⟩ := s.batch_next Config.cyclesPerTick
  obtain rfl := Host.Outcome.next.inj (htick.symm.trans (State.tickWith_of_batch hf hb))
  have hend : (s.cycles + Config.cyclesPerTick) % Config.cyclesPerTick = 0 := by
    rw [Nat.add_mod_right]
    exact beq_iff_eq.mp hbetween
  obtain ⟨k, hk, hkm, hrun, hraised⟩ := State.run_of_batch _ hf (Nat.succ_pos _) le_rfl hend hb
  exact ⟨k, hk, hkm, hrun, fun hlt => u.endTick_fault ▸ hraised hlt⟩

/-! ## A machine at a jump to itself -/

theorem State.isSpinning_iff (s : State) :
    s.isSpinning = true ↔ ∃ nnn, decode s.fetch = .ok (.jp nnn) ∧ addrImm nnn = s.pc := by
  unfold State.isSpinning
  split
  case h_1 nnn hd => simp [hd]
  case h_2 hne => simpa using fun nnn hd => absurd hd (hne nnn)

/-- The jump to itself leaves all as it was (41_control_flow.md R152). -/
theorem State.standsStill_of_spinning {s : State} (hf : s.fault = none) (hs : s.isSpinning = true) : s.StandsStill := by
  obtain ⟨nnn, hd, hself⟩ := s.isSpinning_iff.mp hs
  refine ⟨hf, fun c => ?_⟩
  have hjump : exec (.jp nnn) { s with cycles := c } = .next { s with cycles := c, pc := addrImm nnn } := rfl
  rw [State.cycle_decoded { s with cycles := c } (.jp nnn) hd, hjump, hself]

/-- Settles O19: a machine at a jump to itself stands still. -/
theorem spinningMachineOnlyCountsTimers : Obligations.SpinningMachineOnlyCountsTimers := fun perTick _ hf hs =>
  (State.standsStill_of_spinning hf hs).tickWith perTick

end Sys2Proof.Machine
end

section
/-! PROOFS. The transactions of the host other than `TICK` (spec 48_cycle_tick_host.md R226 to R234): `LOAD`, the key
events, and the two observations. -/

namespace Sys2Proof.Machine

/-! ## `LOAD` -/

theorem romFits_iff (rom : List Byte) : romFits rom = true ↔ rom.length ≤ 3584 := decide_eq_true_iff

theorem State.load_fits (s : State) {rom : List Byte} (h : rom.length ≤ 3584) : s.load rom = (s.loaded rom, .ok) :=
  if_pos ((romFits_iff rom).mpr h)

theorem State.load_tooLong (s : State) {rom : List Byte} (h : 3584 < rom.length) : s.load rom = (s, .romTooLarge) :=
  if_neg fun hfits => Nat.not_le.mpr h ((romFits_iff rom).mp hfits)

/-- The image a `LOAD` installs: the font, the ROM from 0x200 on, zeros elsewhere (20_memory.md R71). -/
theorem State.loaded_readByte (s : State) (rom : List Byte) {a : Nat} (ha : a < 4096) :
    (s.loaded rom).readByte a = if a < 80 then fontByte a else if 512 ≤ a then rom.getD (a - 512) 0 else 0 := by
  have hread : (s.loaded rom).readByte a = (Memory.ofRom 512 rom).read a :=
    congrArg (Memory.ofRom 512 rom).read (Nat.mod_eq_of_lt ha)
  rw [hread, Memory.read_ofRom]
  by_cases hfont : a < 80
  · rw [dif_neg (by omega), if_pos hfont, Memory.unlisted_font a hfont]
  · rw [if_neg hfont, Memory.unlisted_above_font a (by omega)]
    by_cases hrom : 512 ≤ a
    · by_cases hlen : a - 512 < rom.length
      · rw [dif_pos ⟨hrom, hlen⟩, if_pos hrom, List.getD_eq_getElem _ _ hlen]
      · rw [dif_neg fun h => hlen h.2, if_pos hrom, List.getD_eq_default _ _ (by omega)]
    · rw [dif_neg fun h => hrom h.1, if_neg hrom]

/-- Settles O21: a load leaves what power-on leaves, with the image of the ROM as memory. -/
theorem loadResetsEverything : Obligations.LoadResetsEverything := by
  intro perTick s rom hlen
  refine ⟨s.loaded rom, ?_, State.reset_reg, rfl, rfl, rfl, fun _ h => Vector.getElem_replicate h, rfl, rfl,
    State.reset_key, Framebuffer.pixel_clear, rfl, rfl, rfl, rfl, fun _ ha => s.loaded_readByte rom ha⟩
  rw [State.transactWith, s.load_fits hlen]

/-- Settles O22: the ROM does not fit. -/
theorem loadTooLongChangesNothing : Obligations.LoadTooLongChangesNothing := by
  intro perTick s rom hlen
  rw [State.transactWith, s.load_tooLong hlen]

/-! ## Key events -/

/-- The press is latched of a key that was not held, while a wait has nothing latched (48_cycle_tick_host.md R230). -/
theorem State.pressKey_latches {s : State} {k : Nibble}
    (h : s.key k = false ∧ s.waitKey = true ∧ s.latchValid = false) :
    s.pressKey k = (s.setWait s.waitKey true k).setKey k true := by
  obtain ⟨hk, hw, hv⟩ := h
  rw [State.pressKey, if_pos (by simp [hk, hw, hv])]

theorem State.pressKey_unlatched {s : State} {k : Nibble}
    (h : ¬ (s.key k = false ∧ s.waitKey = true ∧ s.latchValid = false)) : s.pressKey k = s.setKey k true := by
  rw [State.pressKey, if_neg (by simpa [and_assoc] using h)]

theorem State.setKey_key_same (s : State) (k : Nibble) (b : Bool) : (s.setKey k b).key k = b := by
  rw [State.setKey_key, if_pos rfl]

theorem State.setKey_key_other (s : State) {k q : Nibble} (b : Bool) (h : q ≠ k) :
    (s.setKey k b).key q = s.key q := by
  rw [State.setKey_key, if_neg h]

/-- Writing the level a key has changes nothing. -/
theorem State.setKey_same (s : State) {k : Nibble} {b : Bool} (h : s.key k = b) : s.setKey k b = s := by
  have hkeys : s.keys.set k.toNat b k.isLt = s.keys := h ▸ Vector.set_getElem_self k.isLt
  rw [State.setKey, hkeys]

/-- Settles O23: by whether the press is latched. -/
theorem keyDownHoldsAndLatches : Obligations.KeyDownHoldsAndLatches := by
  intro perTick s k
  refine ⟨s.pressKey k, by rw [State.transactWith, s.keyDown_toNat], ?_⟩
  by_cases h : s.key k = false ∧ s.waitKey = true ∧ s.latchValid = false
  · rw [State.pressKey_latches h, if_pos h]
    exact ⟨State.setKey_key_same _ k true, fun _ hq => State.setKey_key_other _ true hq, ⟨rfl, rfl⟩, rfl⟩
  · rw [State.pressKey_unlatched h, if_neg h]
    exact ⟨s.setKey_key_same k true, fun _ hq => s.setKey_key_other true hq, ⟨rfl, rfl⟩, rfl⟩

/-- Settles O24: the release is a write of one key, which leaves a key that was not held as it was. -/
theorem keyUpReleasesAndNothingElse : Obligations.KeyUpReleasesAndNothingElse := by
  intro perTick s k
  refine ⟨s.setKey k false, ?_, s.setKey_key_same k false, fun _ hq => s.setKey_key_other false hq, rfl,
    s.setKey_same⟩
  rw [State.transactWith, s.keyUp_toNat]

theorem keyOfCode_out_of_range {code : Int} (h : code < 0 ∨ 15 < code) : keyOfCode code = none :=
  if_neg (by omega)

/-- Settles O25: such a code names no key. -/
theorem keyCodesOutOfRangeAreIgnored : Obligations.KeyCodesOutOfRangeAreIgnored := by
  intro perTick s code h
  have hnone := keyOfCode_out_of_range h
  exact ⟨by rw [State.transactWith, State.keyDown, hnone], by rw [State.transactWith, State.keyUp, hnone]⟩

/-! ## Observations -/

/-- Settles O26: the answers are the comparison and the framebuffer. -/
theorem observationsChangeNothing : Obligations.ObservationsChangeNothing := fun _ s =>
  ⟨⟨_, rfl, decide_eq_true_iff⟩, ⟨_, rfl, fun _ _ hy hx => Framebuffer.getElem_eq_pixel s.fb hy hx⟩⟩

end Sys2Proof.Machine
end

section
/-! PROOFS. The exceptions (spec 60_exceptions.md R252, R254, R256, R257): what each instruction does to the fault
register, then the overflow of `CALL` and the closed list of the instructions that raise. -/

namespace Sys2Proof.Machine

/-! ## A full stack -/

theorem State.stackFull_iff (s : State) : s.stackFull = true ↔ s.sp.val = 16 := beq_iff_eq

/-- Settles O38: by whether the stack is full. -/
theorem seventeenthCallOverflows : Obligations.SeventeenthCallOverflows := by
  intro nnn s hf
  rcases Nat.lt_or_eq_of_le (Nat.le_of_lt_succ s.sp.isLt) with hroom | hfull
  · refine ⟨_, exec_call_pushes nnn s (State.stackFull_eq_false hroom), fun h => absurd h hroom.ne, fun _ => ⟨?_, ?_⟩⟩
    · rw [State.setPc_fault, State.push_fault, hf]
    · rw [State.setPc_sp, s.push_sp _ hroom]
  · exact ⟨_, exec_call_raises nnn s (s.stackFull_iff.mpr hfull), fun _ => rfl, fun h => absurd hfull h.ne⟩

/-! ## The fault register -/

/-- A raise on a running machine writes nothing but the fault register (60_exceptions.md R254). -/
theorem State.raise_frame {s : State} (hf : s.fault = none) (f : Fault) : { s.raise f with fault := none } = s := by
  rw [← hf]
  rfl

/-- Every instruction but `SYS`, `CALL` and `RET` leaves the fault register as it was (60_exceptions.md R256). -/
theorem exec_fault_of_not_sys_call_ret {i : Instr} {s t : State} (h : exec i s = .next t)
    (hsys : ∀ nnn, i ≠ .sys nnn) (hcall : ∀ nnn, i ≠ .call nnn) (hret : i ≠ .ret) : t.fault = s.fault := by
  cases exec_effect h with
  | raises f hi =>
    obtain rfl | ⟨nnn, rfl | rfl⟩ := hi
    · exact absurd rfl hret
    · exact absurd rfl (hsys nnn)
    · exact absurd rfl (hcall nnn)
  | calls nnn => exact absurd rfl (hcall nnn)
  | registers | draws | returns | pixels | index | memory | delay | sound | keyWait => rfl

/-- All an instruction can do to the fault register: raise one of the three faults, under the condition of that fault
(60_exceptions.md R250 to R253), or leave it as it was, when none of the conditions holds. -/
theorem exec_fault_cases {i : Instr} {s t : State} (h : exec i s = .next t) :
    (∃ nnn, i = .sys nnn ∧ t = s.raise (.unknownOpcode (encode i))) ∨
    (∃ nnn, i = .call nnn ∧ s.sp.val = 16 ∧ t = s.raise .stackOverflow) ∨
    (i = .ret ∧ s.sp.val = 0 ∧ t = s.raise .stackUnderflow) ∨
    (t.fault = s.fault ∧ (∀ nnn, i ≠ .sys nnn) ∧ (∀ nnn, i = .call nnn → s.sp.val ≠ 16) ∧
      (i = .ret → s.sp.val ≠ 0)) := by
  cases i with
  | sys nnn => exact .inl ⟨nnn, rfl, (Host.Outcome.next.inj h).symm⟩
  | call nnn =>
    obtain ⟨hfull, rfl⟩ | ⟨hroom, rfl⟩ := exec_call_cases h
    · exact .inr (.inl ⟨nnn, rfl, s.stackFull_iff.mp hfull, rfl⟩)
    · exact .inr (.inr (.inr ⟨s.push_fault _, nofun, fun _ _ => ne_of_beq_false hroom, nofun⟩))
  | ret =>
    obtain ⟨hempty, rfl⟩ | ⟨hentry, rfl⟩ := exec_ret_cases h
    · exact .inr (.inr (.inl ⟨rfl, eq_of_beq hempty, rfl⟩))
    · exact .inr (.inr (.inr ⟨rfl, nofun, nofun, fun _ => ne_of_beq_false hentry⟩))
  | _ => exact .inr (.inr (.inr ⟨exec_fault_of_not_sys_call_ret h nofun nofun nofun, nofun, nofun, nofun⟩))

/-- Settles O56: by what the instruction does to the fault register. -/
theorem everyInstructionAnswersAndOnlyThreeRaise : Obligations.EveryInstructionAnswersAndOnlyThreeRaise := by
  intro i s hf
  obtain ⟨t, ht, -⟩ := exec_next_effect i s
  refine ⟨t, ht, ?_⟩
  obtain ⟨nnn, rfl, rfl⟩ | ⟨nnn, rfl, hfull, rfl⟩ | ⟨rfl, hempty, rfl⟩ | ⟨hkept, hsys, hcall, hret⟩ :=
    exec_fault_cases ht
  · exact ⟨iff_of_true nofun (.inl ⟨nnn, rfl⟩), fun _ => ⟨State.raise_frame hf _, .inl ⟨nnn, rfl, rfl⟩⟩⟩
  · exact ⟨iff_of_true nofun (.inr (.inl ⟨⟨nnn, rfl⟩, hfull⟩)),
      fun _ => ⟨State.raise_frame hf _, .inr (.inl ⟨nnn, rfl, rfl⟩)⟩⟩
  · exact ⟨iff_of_true nofun (.inr (.inr ⟨rfl, hempty⟩)), fun _ => ⟨State.raise_frame hf _, .inr (.inr ⟨rfl, rfl⟩)⟩⟩
  · have hnone : t.fault = none := hkept.trans hf
    refine ⟨iff_of_false (not_not_intro hnone) ?_, fun hraised => absurd hnone hraised⟩
    rintro (⟨nnn, hi⟩ | ⟨⟨nnn, hi⟩, hfull⟩ | ⟨hi, hempty⟩)
    · exact hsys nnn hi
    · exact hcall nnn hi hfull
    · exact hret hi hempty

end Sys2Proof.Machine
end
